-- ==== Sys2Proof/Word.lean ====
section
/-! DEFINITION. The sizes of data the spec names (00_scope.md R10) and the register numbers (10_state.md R20, R30). -/

namespace Sys2Proof

/-- A byte, 8 bits (R10). -/
abbrev Byte := BitVec 8

/-- A word, 32 bits (R10): an instruction word, a single-precision pattern. -/
abbrev Word := BitVec 32

/-- A doubleword, 64 bits (R10): the width of an `x` register, of an `f` register and of `pc`. -/
abbrev Dword := BitVec 64

/-- A 5-bit register field; every value names a register of the file the instruction says (R20, R30, R82). -/
abbrev Reg := BitVec 5

end Sys2Proof
end

