-- ==== Sys2Proof/Config.lean ====
section
/-! DEFINITION. What the implementation or the environment fixes, and the free values the spec leaves open.

The open parameters of 00_scope.md R5 and 92_eei_decisions.md: MemMap, HAS_COUNTERS and SC_MAY_FAIL are the fields of
`Params`, which a state carries and no step changes, so that a claim about every state is a claim about every choice of
them (log entries 3 and 7); RESET_PC is `Config.resetPc` (log entry 2); InitMem is the memory of the state a run starts from
(log entry 4); EnvTrap is an argument of `stepUnder` (log entry 5); Numerics is built in full. The draws of the spec are
the opaque constants below, applied to the number of draws taken so far. -/

namespace Sys2Proof

/-- One piece of the address map: the bytes from `base` on, `size` of them, and what they may be used for (R58). -/
structure Region where
  /-- The lowest address. -/
  base : Nat
  /-- How many bytes. -/
  size : Nat
  /-- A load may read them. -/
  readable : Bool
  /-- A store may write them. -/
  writable : Bool
  /-- A fetch may read them. -/
  executable : Bool
  deriving DecidableEq, Repr

/-- The parameters of R5 that a step consults. -/
structure Params where
  /-- MemMap (R58): a byte has the permissions of all the regions it lies in; a byte in no region holds nothing. -/
  memMap : List Region
  /-- HAS_COUNTERS (R36). -/
  hasCounters : Bool
  /-- SC_MAY_FAIL (R66). -/
  scMayFail : Bool
  deriving DecidableEq, Repr

namespace Config

/-- Whether an `sc` whose reservation matches fails nonetheless, where SC_MAY_FAIL is true: a draw (R66). No value. -/
opaque freeSpurious : Nat → Bool

/-- What a read of a counter gives: a draw with no law, not even monotonicity (R36). No value. -/
opaque freeCounter : Nat → Dword

/-- Which of the values a word has held since the last `fence.i` a fetch sees: a draw (R64). No value. -/
opaque freeChoice : Nat → Nat

/-- RESET_PC (R440): open in the spec. DESIGN CHOICE, unsafe (log entry 2). -/
def resetPc : Dword := 0

/-- The parameters a state is reset with. MemMap is open in the spec: DESIGN CHOICE, unsafe, every byte of the address
space may be read, written and executed (log entry 3). HAS_COUNTERS false and SC_MAY_FAIL true are the spec's defaults
(R5). -/
def resetParams : Params :=
  { memMap := [⟨0, 2 ^ 64, true, true, true⟩], hasCounters := false, scMayFail := true }

end Config

end Sys2Proof
end

