-- ==== Sys2Proof/Machine/State.lean ====
section
/-! DEFINITION. The state of the machine (10_state.md), the exceptions (60_exceptions.md R402), and the ways a step stops. -/

namespace Sys2Proof.Machine

/-- The synchronous exceptions with the value each records (R402). -/
inductive Exception where
  /-- Code 0: a taken branch, `jal` or `jalr` to the target `t`, which is not a multiple of 4 (R404). -/
  | instructionAddressMisaligned (t : Dword)
  /-- Code 1: a fetch at `pc` that MemMap does not allow (R405). -/
  | instructionAccessFault (pc : Dword)
  /-- Code 2: a word that is no instruction, a reserved rounding mode, or a CSR access that is not allowed (R403). -/
  | illegalInstruction (inst : Word)
  /-- Code 3: `ebreak` (R406). -/
  | breakpoint (pc : Dword)
  /-- Code 4: a load at an address that is not a multiple of its size (R407). -/
  | loadAddressMisaligned (a : Dword)
  /-- Code 5: a load that MemMap does not allow (R408). -/
  | loadAccessFault (a : Dword)
  /-- Code 6: a store or atomic at an address that is not a multiple of its size (R407). -/
  | storeAMOAddressMisaligned (a : Dword)
  /-- Code 7: a store or atomic that MemMap does not allow (R408). -/
  | storeAMOAccessFault (a : Dword)
  /-- Code 8: `ecall`; it records no value (R409). -/
  | environmentCall
  deriving DecidableEq, Repr

/-- The load reservation: the address and the size of the last `lr` (R39, R66). -/
structure Reservation where
  /-- The address of the `lr`. -/
  addr : Dword
  /-- Its size in bytes, 4 or 8. -/
  size : Nat
  deriving DecidableEq, Repr

/-- A value that a word of memory held at some point since the last `fence.i`, before a store replaced it (R40, R64). -/
structure StaleWord where
  /-- The word's address, a multiple of 4. -/
  word : Nat
  /-- What it held; none where one of its bytes had no value yet (R43). -/
  value : Option Word
  deriving DecidableEq, Repr

/-- Memory (R38, R50): the bytes that hold a value, by address. An address that is not listed holds no value (R43). -/
abbrev Memory := List Host.Cell

/-- The whole state of the machine (10_state.md). -/
structure State where
  /-- `x0` to `x31` (R20). Slot 0 is never read and never written: `x0` is hard-wired (R21). -/
  x : Vector Dword 32
  /-- The address of the instruction being executed (R24). -/
  pc : Dword
  /-- `f0` to `f31` (R30). -/
  f : Vector Dword 32
  /-- The meaningful bits of `fcsr`: frm in 7:5, NV DZ OF UF NX in 4:0; the bits above read as zero (R34). `fflags` and
  `frm` are windows on it (R35). -/
  fcsr : BitVec 8
  /-- The load reservation (R39). -/
  resv : Option Reservation
  /-- Memory (R38). -/
  mem : Memory
  /-- The instruction-fetch view (R40): the older values a fetch may still see. -/
  stale : List StaleWord
  /-- The trap record the environment was handed, its state component being the rest of this state; none while the hart
  runs (R400). -/
  trap : Option Exception
  /-- The parameters MemMap, HAS_COUNTERS and SC_MAY_FAIL (R5). No step changes them. -/
  params : Params
  /-- The MODEL's own field: how many draws have been taken. -/
  draws : Nat
  deriving DecidableEq, Repr

/-- Why the machine stops. -/
inductive Fault where
  /-- The run has ended: a step of a state that holds a trap record, under the default EnvTrap, which halts (R400, R450).
  Raised by `step`. Safe: nothing can be proved of what the environment does. -/
  | halted (e : Exception)
  /-- A load, the read half of an atomic or a fetch met a byte that nothing has written; `a` is the address of the access.
  Raised by every reading access. Safe: the spec's preferred treatment (R43, 92_eei_decisions.md D33). -/
  | noValue (a : Nat)
  /-- A step of a state whose `pc` is not a multiple of 4, which no run reaches (R26). Raised by `step`. Safe: the spec gives
  such a state no step. -/
  | misalignedPc
  deriving DecidableEq, Repr

/-- Why an instruction has no meaning here. -/
inductive Refusal where
  /-- The instruction has no arm yet; raised by `exec`. Safe. No instruction is refused by it. -/
  | notModelled (mnemonic : String)
  deriving DecidableEq, Repr

/-- The machine right after reset (R42, R440). `pc`, the registers R42 gives no value, memory and the parameters as log
entries 1 to 4 and 7 say; the reservation is none, nothing is stale, no trap has been taken. -/
def State.reset : State :=
  { x := Vector.replicate 32 0
    pc := Config.resetPc
    f := Vector.replicate 32 0
    fcsr := 0
    resv := none
    mem := []
    stale := []
    trap := none
    params := Config.resetParams
    draws := 0 }

end Sys2Proof.Machine
end

