-- ==== Sys2Proof/Machine/Ops.lean ====
section
/-! DEFINITION. The named operations on the state: registers, `pc`, memory and its checks, the reservation, taking an
exception and coming back from one. Every instruction's meaning goes through these. -/

namespace Sys2Proof.Machine

/-- What a meaning answers. -/
abbrev Result := Host.Outcome State Fault Refusal

-- ==== Registers ====

/-- `x[i]`; `x[0]` is 0 (R21). -/
def State.readX (s : State) (i : Reg) : Dword := if i = 0#5 then 0 else s.x[i.toNat]'i.isLt

/-- `x[i] <- v`; a write to `x[0]` is discarded (R21). -/
def State.writeX (s : State) (i : Reg) (v : Dword) : State :=
  { s with x := if i = 0#5 then s.x else s.x.set i.toNat v i.isLt }

/-- `f[i]` (R30). -/
def State.readF (s : State) (i : Reg) : Dword := s.f[i.toNat]'i.isLt

/-- `f[i] <- v` (R30). -/
def State.writeF (s : State) (i : Reg) (v : Dword) : State := { s with f := s.f.set i.toNat v i.isLt }

-- ==== The program counter ====

/-- `pc <- t`. -/
def State.setPc (s : State) (t : Dword) : State := { s with pc := t }

/-- `pc <- pc + 4`, modulo 2^64 (R25, R26). -/
def State.advance (s : State) : State := s.setPc (s.pc + 4)

-- ==== Taking an exception, and resuming from one ====

/-- `raise E(info)` (R400, R401, R413): the reservation is cleared, the record is handed to the environment, and nothing
else changes; `pc` stays on the raising instruction. -/
def State.withTrap (s : State) (e : Exception) : State := { s with resv := none, trap := some e }

/-- An instruction that raises ends here. -/
def State.takeTrap (s : State) (e : Exception) : Result := .next (s.withTrap e)

/-- EnvTrap (R400): from the trap record, which is the exception and the state, either a state to resume from or none for
"halt". -/
abbrev EnvTrap := Exception → State → Option State

/-- The default EnvTrap ends the run (R400). -/
def haltOnTrap : EnvTrap := fun _ _ => none

/-- The way back from a trap (R400, R414): the hart runs again from the state `t` the environment supplied. There is no
instruction that does this. The parameters and the number of draws taken are not the environment's to choose: they stay
those of the run (log entry 6). -/
def State.resumed (s t : State) : State := { t with trap := none, params := s.params, draws := s.draws }

/-- What becomes of the state `s` that holds the record `e`, under the environment `env`. -/
def resumeUnder (env : EnvTrap) (e : Exception) (s : State) : Result :=
  match env e s with
  | some t => .next (s.resumed t)
  | none => .fault (.halted e)

/-- The code of an exception (R402): a label, which no rule reads. `EnvironmentCall` has 8 (log entry 17). -/
def Exception.code : Exception → Nat
  | .instructionAddressMisaligned _ => 0
  | .instructionAccessFault _ => 1
  | .illegalInstruction _ => 2
  | .breakpoint _ => 3
  | .loadAddressMisaligned _ => 4
  | .loadAccessFault _ => 5
  | .storeAMOAddressMisaligned _ => 6
  | .storeAMOAccessFault _ => 7
  | .environmentCall => 8

/-- The value an exception records (R402), the instruction word zero-extended. -/
def Exception.info : Exception → Option Dword
  | .instructionAddressMisaligned t => some t
  | .instructionAccessFault pc => some pc
  | .illegalInstruction inst => some (inst.setWidth 64)
  | .breakpoint pc => some pc
  | .loadAddressMisaligned a => some a
  | .loadAccessFault a => some a
  | .storeAMOAddressMisaligned a => some a
  | .storeAMOAccessFault a => some a
  | .environmentCall => none

-- ==== Memory: bytes, little-endian values ====

/-- The canonical form: addresses strictly rising, each one of the 2^64 of the address space (R50). An unlisted address
holds no value, so no entry can equal what an unlisted address reads as. -/
abbrev Memory.wf (m : Memory) : Prop := m.Pairwise (fun c d => c.1 < d.1) ∧ ∀ c ∈ m, c.1 < 2 ^ 64

/-- The byte at an address; none where nothing has written it (R43). -/
def Memory.read : Memory → Nat → Option Byte
  | [], _ => none
  | (k, b) :: m, a => if k = a then some b else Memory.read m a

/-- `mem[a] <- b`. -/
def Memory.write : Memory → Nat → Byte → Memory
  | [], a, b => [(a, b)]
  | (k, c) :: m, a, b =>
    if a < k then (a, b) :: (k, c) :: m else if a = k then (a, b) :: m else (k, c) :: Memory.write m a b

/-- The `n` bytes from `a` on as one number, the byte at `a` the least significant (R52); none where one of them holds no
value. -/
def Memory.readLE (m : Memory) : Nat → Nat → Option Nat
  | _, 0 => some 0
  | a, n + 1 =>
    match m.read a, m.readLE (a + 1) n with
    | some b, some v => some (b.toNat + 256 * v)
    | _, _ => none

/-- The low `8n` bits of `v` into the `n` bytes from `a` on, the least significant byte at `a` (R52). -/
def Memory.writeLE (m : Memory) : Nat → Nat → Nat → Memory
  | _, 0, _ => m
  | a, n + 1, v => Memory.writeLE (m.write a (BitVec.ofNat 8 v)) (a + 1) n (v / 256)

/-- The word at `w`, where all four bytes hold a value. -/
def Memory.wordAt (m : Memory) (w : Nat) : Option Word := (m.readLE w 4).map (BitVec.ofNat 32)

-- ==== The address map ====

/-- The three permissions of MemMap (R58). -/
inductive Permission where
  /-- A load may read the byte. -/
  | read
  /-- A store may write the byte. -/
  | write
  /-- A fetch may read the byte. -/
  | execute
  deriving DecidableEq, Repr

/-- The region gives the byte at `a` the permission. -/
def regionGrants (r : Region) (p : Permission) (a : Nat) : Bool :=
  decide (r.base ≤ a) && decide (a < r.base + r.size) &&
    match p with
    | .read => r.readable
    | .write => r.writable
    | .execute => r.executable

/-- MemMap gives the byte at `a` the permission (R58). -/
def permits (P : Params) (p : Permission) (a : Nat) : Bool := P.memMap.any fun r => regionGrants r p a

/-- MemMap gives each of the `n` bytes from `a` on the permission (R54). -/
def permitsAll (P : Params) (p : Permission) (a n : Nat) : Bool := (List.range n).all fun i => permits P p (a + i)

-- ==== The checks of a data access (R54) ====

/-- How an access is classed: `lr` is a load; `sc` is a store; an `amo*` needs both permissions and raises as a store
(R54). -/
inductive AccessClass where
  /-- Loads, floating-point loads and `lr`. -/
  | load
  /-- Stores, floating-point stores and `sc`. -/
  | store
  /-- `amo*`. -/
  | amo
  deriving DecidableEq, Repr

/-- The exception for an address that is not a multiple of the size (R55, R407). -/
def AccessClass.misaligned : AccessClass → Dword → Exception
  | .load, a => .loadAddressMisaligned a
  | .store, a => .storeAMOAddressMisaligned a
  | .amo, a => .storeAMOAddressMisaligned a

/-- The exception for an access MemMap forbids (R408). -/
def AccessClass.forbidden : AccessClass → Dword → Exception
  | .load, a => .loadAccessFault a
  | .store, a => .storeAMOAccessFault a
  | .amo, a => .storeAMOAccessFault a

/-- MemMap allows the class of access to all `n` bytes. -/
def AccessClass.allowed (c : AccessClass) (P : Params) (a n : Nat) : Bool :=
  match c with
  | .load => permitsAll P .read a n
  | .store => permitsAll P .write a n
  | .amo => permitsAll P .read a n && permitsAll P .write a n

/-- The exception an access of `n` bytes at `a` raises, if any: alignment first, then the map (R54, R411). -/
def State.checkAccess (s : State) (c : AccessClass) (a : Dword) (n : Nat) : Option Exception :=
  if a.toNat % n ≠ 0 then some (c.misaligned a)
  else if c.allowed s.params a.toNat n then none
  else some (c.forbidden a)

/-- How a checked access ends: it is done, it raises, or it met a byte that holds no value. -/
inductive Access (α : Type) where
  /-- The access took place. -/
  | done (v : α)
  /-- The access raised; nothing was read with side effect and nothing was written (R54). -/
  | raises (e : Exception)
  /-- A byte read holds no value (R43). -/
  | noValue (a : Nat)
  deriving DecidableEq, Repr

/-- `MemRead(a, n)` by a load, or the read half of an `amo*`: the value as a number below 2^(8n) (R8, R52, R54). -/
def State.memRead (s : State) (c : AccessClass) (a : Dword) (n : Nat) : Access Nat :=
  match s.checkAccess c a n with
  | some e => .raises e
  | none =>
    match s.mem.readLE a.toNat n with
    | some v => .done v
    | none => .noValue a.toNat

/-- The addresses of the words that an aligned access of `n` bytes at `a` touches. -/
def touchedWords (a n : Nat) : List Nat := if n ≤ 4 then [a - a % 4] else [a - a % 4, a - a % 4 + 4]

/-- The fetch view with one more older value, unless it is there already. -/
def noteStale (l : List StaleWord) (e : StaleWord) : List StaleWord := if e ∈ l then l else l ++ [e]

/-- The fetch view after a store: for each word touched, what it held before the store may still be fetched (R64). -/
def State.staleAfter (s : State) (a n : Nat) : List StaleWord :=
  (touchedWords a n).foldl (fun l w => noteStale l ⟨w, s.mem.wordAt w⟩) s.stale

/-- The write itself, after its checks: the bytes change and the fetch view keeps their older values. -/
def State.putBytes (s : State) (a n v : Nat) : State :=
  { s with mem := s.mem.writeLE a n v, stale := s.staleAfter a n }

/-- `MemWrite(a, n, v)` by a store (R8, R52, R54). -/
def State.memWrite (s : State) (a : Dword) (n v : Nat) : Access State :=
  match s.checkAccess .store a n with
  | some e => .raises e
  | none => .done (s.putBytes a.toNat n v)

/-- What is made of the value read. -/
def Access.map {α β : Type} (k : α → β) : Access α → Access β
  | .done v => .done (k v)
  | .raises e => .raises e
  | .noValue a => .noValue a

/-- The end of an instruction that accesses memory in the state `s`: it completes and `pc` advances, or it takes the
exception with nothing changed (R401), or it stops at the byte that holds no value. -/
def Access.finish (r : Access State) (s : State) : Result :=
  match r with
  | .done t => .next t.advance
  | .raises e => s.takeTrap e
  | .noValue a => .fault (.noValue a)

-- ==== Control transfer (R160) ====

/-- `pc <- t`, with the link register written first, if the target is a multiple of 4; otherwise the transferring
instruction raises and writes nothing (R160). -/
def State.jumpTo (s linked : State) (t : Dword) : Result :=
  if t.toNat % 4 ≠ 0 then s.takeTrap (.instructionAddressMisaligned t) else .next (linked.setPc t)

-- ==== Completion, draws, the reservation, the fetch view ====

/-- An instruction whose rule does not assign `pc` completes (R25). -/
def State.completes (s : State) : Result := .next s.advance

/-- One draw has been taken. -/
def State.drawn (s : State) : State := { s with draws := s.draws + 1 }

/-- `resv <- r` (R66). -/
def State.setResv (s : State) (r : Option Reservation) : State := { s with resv := r }

/-- `fetch view <- memory` (R200). -/
def State.syncFetch (s : State) : State := { s with stale := [] }

end Sys2Proof.Machine
end

