-- ==== Sys2Proof/Machine/Operands.lean ====
section
/-! DEFINITION. Operand forms: immediates, effective addresses, Word operands, shift amounts, boxed singles. -/

namespace Sys2Proof.Machine

/-- The 12-bit immediate of formats I and S, sign-extended (R84, R85, R86). -/
def sextImm (imm : BitVec 12) : Dword := imm.signExtend 64

/-- The U-immediate: the field in bits 31:12, bits 11:0 zero, bit 31 copied into bits 63:32 (R88). -/
def upperImm (imm : BitVec 20) : Dword := (imm ++ 0#12 : BitVec 32).signExtend 64

/-- `ea = x[rs1] + imm`, modulo 2^64 (R50, R175). -/
def State.effAddr (s : State) (rs1 : Reg) (imm : BitVec 12) : Dword := s.readX rs1 + sextImm imm

/-- `x[i][31:0]`, the operand of a Word form (R121). -/
def State.readXW (s : State) (i : Reg) : Word := (s.readX i).setWidth 32

/-- `sext_64(r)` of a 32-bit result (R121). -/
def sextWord (r : Word) : Dword := r.signExtend 64

/-- The amount of a 64-bit register shift: the low 6 bits (R153). -/
def amount6 (v : Dword) : Nat := v.toNat % 64

/-- The amount of a Word register shift: the low 5 bits (R153). -/
def amount5 (v : Dword) : Nat := v.toNat % 32

/-- 1 or 0 in 64 bits: the result of a comparison (R154, R258). -/
def ofBit (b : Bool) : Dword := if b then 1 else 0

/-- `box(r)`: the upper 32 bits all ones (R32, R226). -/
def box (r : Word) : Dword := 0xFFFFFFFF#32 ++ r

/-- `unbox(v)`: the low 32 bits of a boxed single, the canonical NaN otherwise (R32, R226). -/
def unbox (v : Dword) : Word := if v.extractLsb' 32 32 = 0xFFFFFFFF#32 then v.setWidth 32 else 0x7FC00000#32

/-- A single-precision operand: `unbox(f[i])` (R226). -/
def State.readS (s : State) (i : Reg) : Word := unbox (s.readF i)

/-- `f[i] <- box(r)` (R226). -/
def State.writeS (s : State) (i : Reg) (r : Word) : State := s.writeF i (box r)

end Sys2Proof.Machine
end

