-- ==== Sys2Proof/Machine/LoadStore.lean ====
section
/-! DEFINITION. The meanings of the integer loads and stores (42_load_store.md R175 to R186).

Each meaning takes the fields of its constructor, in order, and the state. -/

namespace Sys2Proof.Machine

/-- `sext_64` of a `w`-bit value. -/
def sextFrom (w v : Nat) : Dword := (BitVec.ofNat w v).signExtend 64

/-- `zext_64` of a `w`-bit value. -/
def zextFrom (w v : Nat) : Dword := (BitVec.ofNat w v).setWidth 64

/-- A load of `n` bytes at `a` into `x[rd]` (R175). -/
def State.loadX (s : State) (rd : Reg) (a : Dword) (n : Nat) (ext : Nat → Dword) : Result :=
  ((s.memRead .load a n).map fun v => s.writeX rd (ext v)).finish s

/-- A store of the low `8n` bits of `v` at `a` (R175). -/
def State.store (s : State) (a : Dword) (n v : Nat) : Result := (s.memWrite a n v).finish s

/-- `lb` (R176). -/
def execLb (rd rs1 : Reg) (imm : BitVec 12) (s : State) : Result :=
  s.loadX rd (s.effAddr rs1 imm) 1 (sextFrom 8)

/-- `lbu` (R177). -/
def execLbu (rd rs1 : Reg) (imm : BitVec 12) (s : State) : Result :=
  s.loadX rd (s.effAddr rs1 imm) 1 (zextFrom 8)

/-- `lh` (R178). -/
def execLh (rd rs1 : Reg) (imm : BitVec 12) (s : State) : Result :=
  s.loadX rd (s.effAddr rs1 imm) 2 (sextFrom 16)

/-- `lhu` (R179). -/
def execLhu (rd rs1 : Reg) (imm : BitVec 12) (s : State) : Result :=
  s.loadX rd (s.effAddr rs1 imm) 2 (zextFrom 16)

/-- `lw` (R180). -/
def execLw (rd rs1 : Reg) (imm : BitVec 12) (s : State) : Result :=
  s.loadX rd (s.effAddr rs1 imm) 4 (sextFrom 32)

/-- `lwu` (R181). -/
def execLwu (rd rs1 : Reg) (imm : BitVec 12) (s : State) : Result :=
  s.loadX rd (s.effAddr rs1 imm) 4 (zextFrom 32)

/-- `ld` (R182). -/
def execLd (rd rs1 : Reg) (imm : BitVec 12) (s : State) : Result :=
  s.loadX rd (s.effAddr rs1 imm) 8 (zextFrom 64)

/-- `sb` (R183). -/
def execSb (rs1 rs2 : Reg) (imm : BitVec 12) (s : State) : Result :=
  s.store (s.effAddr rs1 imm) 1 (s.readX rs2).toNat

/-- `sh` (R184). -/
def execSh (rs1 rs2 : Reg) (imm : BitVec 12) (s : State) : Result :=
  s.store (s.effAddr rs1 imm) 2 (s.readX rs2).toNat

/-- `sw` (R185). -/
def execSw (rs1 rs2 : Reg) (imm : BitVec 12) (s : State) : Result :=
  s.store (s.effAddr rs1 imm) 4 (s.readX rs2).toNat

/-- `sd` (R186). -/
def execSd (rs1 rs2 : Reg) (imm : BitVec 12) (s : State) : Result :=
  s.store (s.effAddr rs1 imm) 8 (s.readX rs2).toNat

end Sys2Proof.Machine
end

