-- ==== Sys2Proof/Machine/Atomic.lean ====
section
/-! DEFINITION. The meanings of RV64A (47_atomic.md R310 to R333). The `aq` and `rl` bits have no effect (R311).

Each meaning takes the fields of its constructor, in order, and the state. -/

namespace Sys2Proof.Machine

/-- An `amo*` on the `n` bytes at `a`, with the checks of a store: the old value is read, `op` of it written, and the old
value, extended, goes to `x[rd]` (R310). -/
def State.amo (s : State) (rd : Reg) (a : Dword) (n : Nat) (op : Nat → Nat) (ext : Nat → Dword) : Result :=
  ((s.memRead .amo a n).map fun t => (s.putBytes a.toNat n (op t)).writeX rd (ext t)).finish s

/-- R310 with n = 4. -/
def State.amoW (s : State) (rd rs1 rs2 : Reg) (op : Word → Word → Word) : Result :=
  s.amo rd (s.readX rs1) 4 (fun t => (op (BitVec.ofNat 32 t) (s.readXW rs2)).toNat) (sextFrom 32)

/-- R310 with n = 8. -/
def State.amoD (s : State) (rd rs1 rs2 : Reg) (op : Dword → Dword → Dword) : Result :=
  s.amo rd (s.readX rs1) 8 (fun t => (op (BitVec.ofNat 64 t) (s.readX rs2)).toNat) (zextFrom 64)

/-- `lr` of `n` bytes at `a`: the load, and the reservation, which replaces any earlier one (R66, R330). -/
def State.loadReserved (s : State) (rd : Reg) (a : Dword) (n : Nat) (ext : Nat → Dword) : Result :=
  ((s.memRead .load a n).map fun v => (s.writeX rd (ext v)).setResv (some ⟨a, n⟩)).finish s

/-- An `sc` that stores: `x[rd] <- 0`, and the reservation is cleared (R66). -/
def State.scSucceeds (s : State) (rd : Reg) (a : Dword) (n v : Nat) : State :=
  ((s.putBytes a.toNat n v).writeX rd 0).setResv none

/-- An `sc` that does not store: `x[rd] <- 1`, and the reservation is cleared (R66). -/
def State.scFails (s : State) (rd : Reg) : State := (s.writeX rd 1).setResv none

/-- `sc` of the low `8n` bits of `v` at `a`, after its checks (R66, R332): without the reservation it fails; with it, it
succeeds, unless SC_MAY_FAIL is set and a draw makes it fail. -/
def State.storeConditional (s : State) (rd : Reg) (a : Dword) (n v : Nat) : Result :=
  match s.checkAccess .store a n with
  | some e => s.takeTrap e
  | none =>
    if s.resv = some ⟨a, n⟩ then
      if s.params.scMayFail then
        (if Config.freeSpurious s.draws then s.drawn.scFails rd else s.drawn.scSucceeds rd a n v).completes
      else (s.scSucceeds rd a n v).completes
    else (s.scFails rd).completes

/-- `amoadd.w` (R312). -/
def execAmoaddW (rd rs1 rs2 : Reg) (_aq _rl : Bool) (s : State) : Result :=
  s.amoW rd rs1 rs2 (fun t v => t + v)

/-- `amoadd.d` (R313). -/
def execAmoaddD (rd rs1 rs2 : Reg) (_aq _rl : Bool) (s : State) : Result :=
  s.amoD rd rs1 rs2 (fun t v => t + v)

/-- `amoand.w` (R314). -/
def execAmoandW (rd rs1 rs2 : Reg) (_aq _rl : Bool) (s : State) : Result :=
  s.amoW rd rs1 rs2 (fun t v => t &&& v)

/-- `amoand.d` (R315). -/
def execAmoandD (rd rs1 rs2 : Reg) (_aq _rl : Bool) (s : State) : Result :=
  s.amoD rd rs1 rs2 (fun t v => t &&& v)

/-- `amomax.w` (R316). -/
def execAmomaxW (rd rs1 rs2 : Reg) (_aq _rl : Bool) (s : State) : Result :=
  s.amoW rd rs1 rs2 (fun t v => if t.slt v then v else t)

/-- `amomax.d` (R317). -/
def execAmomaxD (rd rs1 rs2 : Reg) (_aq _rl : Bool) (s : State) : Result :=
  s.amoD rd rs1 rs2 (fun t v => if t.slt v then v else t)

/-- `amomaxu.w` (R318). -/
def execAmomaxuW (rd rs1 rs2 : Reg) (_aq _rl : Bool) (s : State) : Result :=
  s.amoW rd rs1 rs2 (fun t v => if t.ult v then v else t)

/-- `amomaxu.d` (R319). -/
def execAmomaxuD (rd rs1 rs2 : Reg) (_aq _rl : Bool) (s : State) : Result :=
  s.amoD rd rs1 rs2 (fun t v => if t.ult v then v else t)

/-- `amomin.w` (R320). -/
def execAmominW (rd rs1 rs2 : Reg) (_aq _rl : Bool) (s : State) : Result :=
  s.amoW rd rs1 rs2 (fun t v => if v.slt t then v else t)

/-- `amomin.d` (R321). -/
def execAmominD (rd rs1 rs2 : Reg) (_aq _rl : Bool) (s : State) : Result :=
  s.amoD rd rs1 rs2 (fun t v => if v.slt t then v else t)

/-- `amominu.w` (R322). -/
def execAmominuW (rd rs1 rs2 : Reg) (_aq _rl : Bool) (s : State) : Result :=
  s.amoW rd rs1 rs2 (fun t v => if v.ult t then v else t)

/-- `amominu.d` (R323). -/
def execAmominuD (rd rs1 rs2 : Reg) (_aq _rl : Bool) (s : State) : Result :=
  s.amoD rd rs1 rs2 (fun t v => if v.ult t then v else t)

/-- `amoor.w` (R324). -/
def execAmoorW (rd rs1 rs2 : Reg) (_aq _rl : Bool) (s : State) : Result :=
  s.amoW rd rs1 rs2 (fun t v => t ||| v)

/-- `amoor.d` (R325). -/
def execAmoorD (rd rs1 rs2 : Reg) (_aq _rl : Bool) (s : State) : Result :=
  s.amoD rd rs1 rs2 (fun t v => t ||| v)

/-- `amoswap.w` (R326). -/
def execAmoswapW (rd rs1 rs2 : Reg) (_aq _rl : Bool) (s : State) : Result :=
  s.amoW rd rs1 rs2 (fun _ v => v)

/-- `amoswap.d` (R327). -/
def execAmoswapD (rd rs1 rs2 : Reg) (_aq _rl : Bool) (s : State) : Result :=
  s.amoD rd rs1 rs2 (fun _ v => v)

/-- `amoxor.w` (R328). -/
def execAmoxorW (rd rs1 rs2 : Reg) (_aq _rl : Bool) (s : State) : Result :=
  s.amoW rd rs1 rs2 (fun t v => t ^^^ v)

/-- `amoxor.d` (R329). -/
def execAmoxorD (rd rs1 rs2 : Reg) (_aq _rl : Bool) (s : State) : Result :=
  s.amoD rd rs1 rs2 (fun t v => t ^^^ v)

/-- `lr.w` (R330). -/
def execLrW (rd rs1 : Reg) (_aq _rl : Bool) (s : State) : Result :=
  s.loadReserved rd (s.readX rs1) 4 (sextFrom 32)

/-- `lr.d` (R331). -/
def execLrD (rd rs1 : Reg) (_aq _rl : Bool) (s : State) : Result :=
  s.loadReserved rd (s.readX rs1) 8 (zextFrom 64)

/-- `sc.w` (R332). -/
def execScW (rd rs1 rs2 : Reg) (_aq _rl : Bool) (s : State) : Result :=
  s.storeConditional rd (s.readX rs1) 4 (s.readX rs2).toNat

/-- `sc.d` (R333). -/
def execScD (rd rs1 rs2 : Reg) (_aq _rl : Bool) (s : State) : Result :=
  s.storeConditional rd (s.readX rs1) 8 (s.readX rs2).toNat

end Sys2Proof.Machine
end

