-- ==== Sys2Proof/Machine/Control.lean ====
section
/-! DEFINITION. The meanings of the branches and jumps (41_control_transfer.md R160 to R168).

Each meaning takes the fields of its constructor, in order, and the state. -/

namespace Sys2Proof.Machine

/-- A conditional branch: to `pc + off` if the condition holds, with the alignment check of R160; to the next instruction
otherwise. -/
def State.branchIf (s : State) (taken : Bool) (off : BitVec 13) : Result :=
  if taken then s.jumpTo s (s.pc + off.signExtend 64) else s.completes

/-- `beq` (R161). -/
def execBeq (rs1 rs2 : Reg) (off : BitVec 13) (s : State) : Result :=
  s.branchIf (decide (s.readX rs1 = s.readX rs2)) off

/-- `bne` (R162). -/
def execBne (rs1 rs2 : Reg) (off : BitVec 13) (s : State) : Result :=
  s.branchIf (decide (s.readX rs1 ≠ s.readX rs2)) off

/-- `blt` (R163). -/
def execBlt (rs1 rs2 : Reg) (off : BitVec 13) (s : State) : Result :=
  s.branchIf ((s.readX rs1).slt (s.readX rs2)) off

/-- `bge` (R164). -/
def execBge (rs1 rs2 : Reg) (off : BitVec 13) (s : State) : Result :=
  s.branchIf (!(s.readX rs1).slt (s.readX rs2)) off

/-- `bltu` (R165). -/
def execBltu (rs1 rs2 : Reg) (off : BitVec 13) (s : State) : Result :=
  s.branchIf ((s.readX rs1).ult (s.readX rs2)) off

/-- `bgeu` (R166). -/
def execBgeu (rs1 rs2 : Reg) (off : BitVec 13) (s : State) : Result :=
  s.branchIf (!(s.readX rs1).ult (s.readX rs2)) off

/-- `jal` (R167). -/
def execJal (rd : Reg) (off : BitVec 21) (s : State) : Result :=
  s.jumpTo (s.writeX rd (s.pc + 4)) (s.pc + off.signExtend 64)

/-- `jalr` (R168): `x[rs1]` is read before `x[rd]` is written; bit 0 of the target is cleared. -/
def execJalr (rd rs1 : Reg) (imm : BitVec 12) (s : State) : Result :=
  s.jumpTo (s.writeX rd (s.pc + 4)) (s.effAddr rs1 imm &&& ~~~1#64)

end Sys2Proof.Machine
end

