-- ==== Sys2Proof/Syntax.lean ====
section
/-! DEFINITION. The instructions: one constructor per row of spec/opcode_table.json, in the table's order.

A field holds the bits the encoding holds (30_encoding.md R82 to R90), before any extension. A branch offset is the whole
13-bit value and a `jal` offset the whole 21-bit value, bit 0 included (R87, R89). `rm`, `csr`, `aq`, `rl` and the ignored
fields of the fences may take every value: what a reserved one does is the meaning's affair. The fields of an
instruction word that the encoding fixes are no fields here. -/

namespace Sys2Proof

/-- The 156 instructions (R3). The name of a row is its mnemonic with the dots dropped: `fcvt.lu.s` is `fcvtLuS`. -/
inductive Instr where
  -- RV64I integer computational (40_integer_computational.md)
  /-- `add` (R122). -/
  | add (rd rs1 rs2 : Reg)
  /-- `addw` (R123). -/
  | addw (rd rs1 rs2 : Reg)
  /-- `addi` (R124). -/
  | addi (rd rs1 : Reg) (imm : BitVec 12)
  /-- `addiw` (R125). -/
  | addiw (rd rs1 : Reg) (imm : BitVec 12)
  /-- `and` (R126). -/
  | and (rd rs1 rs2 : Reg)
  /-- `andi` (R127). -/
  | andi (rd rs1 : Reg) (imm : BitVec 12)
  /-- `auipc` (R128). -/
  | auipc (rd : Reg) (imm : BitVec 20)
  /-- `lui` (R129). -/
  | lui (rd : Reg) (imm : BitVec 20)
  /-- `or` (R130). -/
  | or (rd rs1 rs2 : Reg)
  /-- `ori` (R131). -/
  | ori (rd rs1 : Reg) (imm : BitVec 12)
  /-- `sll` (R132). -/
  | sll (rd rs1 rs2 : Reg)
  /-- `sllw` (R133). -/
  | sllw (rd rs1 rs2 : Reg)
  /-- `slli` (R134). -/
  | slli (rd rs1 : Reg) (shamt : BitVec 6)
  /-- `slliw` (R135). -/
  | slliw (rd rs1 : Reg) (shamt : BitVec 5)
  /-- `slt` (R136). -/
  | slt (rd rs1 rs2 : Reg)
  /-- `slti` (R137). -/
  | slti (rd rs1 : Reg) (imm : BitVec 12)
  /-- `sltiu` (R138). -/
  | sltiu (rd rs1 : Reg) (imm : BitVec 12)
  /-- `sltu` (R139). -/
  | sltu (rd rs1 rs2 : Reg)
  /-- `sra` (R140). -/
  | sra (rd rs1 rs2 : Reg)
  /-- `sraw` (R141). -/
  | sraw (rd rs1 rs2 : Reg)
  /-- `srai` (R142). -/
  | srai (rd rs1 : Reg) (shamt : BitVec 6)
  /-- `sraiw` (R143). -/
  | sraiw (rd rs1 : Reg) (shamt : BitVec 5)
  /-- `srl` (R144). -/
  | srl (rd rs1 rs2 : Reg)
  /-- `srlw` (R145). -/
  | srlw (rd rs1 rs2 : Reg)
  /-- `srli` (R146). -/
  | srli (rd rs1 : Reg) (shamt : BitVec 6)
  /-- `srliw` (R147). -/
  | srliw (rd rs1 : Reg) (shamt : BitVec 5)
  /-- `sub` (R148). -/
  | sub (rd rs1 rs2 : Reg)
  /-- `subw` (R149). -/
  | subw (rd rs1 rs2 : Reg)
  /-- `xor` (R150). -/
  | xor (rd rs1 rs2 : Reg)
  /-- `xori` (R151). -/
  | xori (rd rs1 : Reg) (imm : BitVec 12)
  -- RV64I control transfer (41_control_transfer.md)
  /-- `beq` (R161). -/
  | beq (rs1 rs2 : Reg) (off : BitVec 13)
  /-- `bne` (R162). -/
  | bne (rs1 rs2 : Reg) (off : BitVec 13)
  /-- `blt` (R163). -/
  | blt (rs1 rs2 : Reg) (off : BitVec 13)
  /-- `bge` (R164). -/
  | bge (rs1 rs2 : Reg) (off : BitVec 13)
  /-- `bltu` (R165). -/
  | bltu (rs1 rs2 : Reg) (off : BitVec 13)
  /-- `bgeu` (R166). -/
  | bgeu (rs1 rs2 : Reg) (off : BitVec 13)
  /-- `jal` (R167). -/
  | jal (rd : Reg) (off : BitVec 21)
  /-- `jalr` (R168). -/
  | jalr (rd rs1 : Reg) (imm : BitVec 12)
  -- RV64I loads and stores (42_load_store.md)
  /-- `lb` (R176). -/
  | lb (rd rs1 : Reg) (imm : BitVec 12)
  /-- `lbu` (R177). -/
  | lbu (rd rs1 : Reg) (imm : BitVec 12)
  /-- `lh` (R178). -/
  | lh (rd rs1 : Reg) (imm : BitVec 12)
  /-- `lhu` (R179). -/
  | lhu (rd rs1 : Reg) (imm : BitVec 12)
  /-- `lw` (R180). -/
  | lw (rd rs1 : Reg) (imm : BitVec 12)
  /-- `lwu` (R181). -/
  | lwu (rd rs1 : Reg) (imm : BitVec 12)
  /-- `ld` (R182). -/
  | ld (rd rs1 : Reg) (imm : BitVec 12)
  /-- `sb` (R183). -/
  | sb (rs1 rs2 : Reg) (imm : BitVec 12)
  /-- `sh` (R184). -/
  | sh (rs1 rs2 : Reg) (imm : BitVec 12)
  /-- `sw` (R185). -/
  | sw (rs1 rs2 : Reg) (imm : BitVec 12)
  /-- `sd` (R186). -/
  | sd (rs1 rs2 : Reg) (imm : BitVec 12)
  -- CSR access, environment call and break, fences (43_system.md)
  /-- `csrrw` (R191). -/
  | csrrw (rd rs1 : Reg) (csr : BitVec 12)
  /-- `csrrs` (R192). -/
  | csrrs (rd rs1 : Reg) (csr : BitVec 12)
  /-- `csrrc` (R193). -/
  | csrrc (rd rs1 : Reg) (csr : BitVec 12)
  /-- `csrrwi` (R194). -/
  | csrrwi (rd : Reg) (uimm : BitVec 5) (csr : BitVec 12)
  /-- `csrrsi` (R195). -/
  | csrrsi (rd : Reg) (uimm : BitVec 5) (csr : BitVec 12)
  /-- `csrrci` (R196). -/
  | csrrci (rd : Reg) (uimm : BitVec 5) (csr : BitVec 12)
  /-- `ecall` (R197). -/
  | ecall
  /-- `ebreak` (R198). -/
  | ebreak
  /-- `fence` (R199). -/
  | fence (fm pred succ : BitVec 4) (rs1 rd : Reg)
  /-- `fence.i` (R200). -/
  | fenceI (imm : BitVec 12) (rs1 rd : Reg)
  -- RV64M (44_multiply_divide.md)
  /-- `mul` (R206). -/
  | mul (rd rs1 rs2 : Reg)
  /-- `mulw` (R207). -/
  | mulw (rd rs1 rs2 : Reg)
  /-- `mulh` (R208). -/
  | mulh (rd rs1 rs2 : Reg)
  /-- `mulhu` (R209). -/
  | mulhu (rd rs1 rs2 : Reg)
  /-- `mulhsu` (R210). -/
  | mulhsu (rd rs1 rs2 : Reg)
  /-- `div` (R211). -/
  | div (rd rs1 rs2 : Reg)
  /-- `divw` (R212). -/
  | divw (rd rs1 rs2 : Reg)
  /-- `divu` (R213). -/
  | divu (rd rs1 rs2 : Reg)
  /-- `divuw` (R214). -/
  | divuw (rd rs1 rs2 : Reg)
  /-- `rem` (R215). -/
  | rem (rd rs1 rs2 : Reg)
  /-- `remw` (R216). -/
  | remw (rd rs1 rs2 : Reg)
  /-- `remu` (R217). -/
  | remu (rd rs1 rs2 : Reg)
  /-- `remuw` (R218). -/
  | remuw (rd rs1 rs2 : Reg)
  -- RV64F/RV64D loads, stores, sign injection, min/max, compare, classify, moves (45_fp_move_compare.md)
  /-- `flw` (R230). -/
  | flw (rd rs1 : Reg) (imm : BitVec 12)
  /-- `fld` (R231). -/
  | fld (rd rs1 : Reg) (imm : BitVec 12)
  /-- `fsw` (R232). -/
  | fsw (rs1 rs2 : Reg) (imm : BitVec 12)
  /-- `fsd` (R233). -/
  | fsd (rs1 rs2 : Reg) (imm : BitVec 12)
  /-- `fsgnj.s` (R234). -/
  | fsgnjS (rd rs1 rs2 : Reg)
  /-- `fsgnj.d` (R235). -/
  | fsgnjD (rd rs1 rs2 : Reg)
  /-- `fsgnjn.s` (R236). -/
  | fsgnjnS (rd rs1 rs2 : Reg)
  /-- `fsgnjn.d` (R237). -/
  | fsgnjnD (rd rs1 rs2 : Reg)
  /-- `fsgnjx.s` (R238). -/
  | fsgnjxS (rd rs1 rs2 : Reg)
  /-- `fsgnjx.d` (R239). -/
  | fsgnjxD (rd rs1 rs2 : Reg)
  /-- `fmin.s` (R240). -/
  | fminS (rd rs1 rs2 : Reg)
  /-- `fmin.d` (R241). -/
  | fminD (rd rs1 rs2 : Reg)
  /-- `fmax.s` (R242). -/
  | fmaxS (rd rs1 rs2 : Reg)
  /-- `fmax.d` (R243). -/
  | fmaxD (rd rs1 rs2 : Reg)
  /-- `feq.s` (R244). -/
  | feqS (rd rs1 rs2 : Reg)
  /-- `feq.d` (R245). -/
  | feqD (rd rs1 rs2 : Reg)
  /-- `flt.s` (R246). -/
  | fltS (rd rs1 rs2 : Reg)
  /-- `flt.d` (R247). -/
  | fltD (rd rs1 rs2 : Reg)
  /-- `fle.s` (R248). -/
  | fleS (rd rs1 rs2 : Reg)
  /-- `fle.d` (R249). -/
  | fleD (rd rs1 rs2 : Reg)
  /-- `fclass.s` (R250). -/
  | fclassS (rd rs1 : Reg)
  /-- `fclass.d` (R251). -/
  | fclassD (rd rs1 : Reg)
  /-- `fmv.s.x` (R252). -/
  | fmvSX (rd rs1 : Reg)
  /-- `fmv.d.x` (R253). -/
  | fmvDX (rd rs1 : Reg)
  /-- `fmv.x.s` (R254). -/
  | fmvXS (rd rs1 : Reg)
  /-- `fmv.x.d` (R255). -/
  | fmvXD (rd rs1 : Reg)
  -- RV64F/RV64D arithmetic and precision conversions (46_fp_arith_convert.md)
  /-- `fadd.s` (R266). -/
  | faddS (rd rs1 rs2 : Reg) (rm : BitVec 3)
  /-- `fadd.d` (R267). -/
  | faddD (rd rs1 rs2 : Reg) (rm : BitVec 3)
  /-- `fsub.s` (R268). -/
  | fsubS (rd rs1 rs2 : Reg) (rm : BitVec 3)
  /-- `fsub.d` (R269). -/
  | fsubD (rd rs1 rs2 : Reg) (rm : BitVec 3)
  /-- `fmul.s` (R270). -/
  | fmulS (rd rs1 rs2 : Reg) (rm : BitVec 3)
  /-- `fmul.d` (R271). -/
  | fmulD (rd rs1 rs2 : Reg) (rm : BitVec 3)
  /-- `fdiv.s` (R272). -/
  | fdivS (rd rs1 rs2 : Reg) (rm : BitVec 3)
  /-- `fdiv.d` (R273). -/
  | fdivD (rd rs1 rs2 : Reg) (rm : BitVec 3)
  /-- `fsqrt.s` (R274). -/
  | fsqrtS (rd rs1 : Reg) (rm : BitVec 3)
  /-- `fsqrt.d` (R275). -/
  | fsqrtD (rd rs1 : Reg) (rm : BitVec 3)
  /-- `fmadd.s` (R276). -/
  | fmaddS (rd rs1 rs2 rs3 : Reg) (rm : BitVec 3)
  /-- `fmadd.d` (R277). -/
  | fmaddD (rd rs1 rs2 rs3 : Reg) (rm : BitVec 3)
  /-- `fmsub.s` (R278). -/
  | fmsubS (rd rs1 rs2 rs3 : Reg) (rm : BitVec 3)
  /-- `fmsub.d` (R279). -/
  | fmsubD (rd rs1 rs2 rs3 : Reg) (rm : BitVec 3)
  /-- `fnmadd.s` (R280). -/
  | fnmaddS (rd rs1 rs2 rs3 : Reg) (rm : BitVec 3)
  /-- `fnmadd.d` (R281). -/
  | fnmaddD (rd rs1 rs2 rs3 : Reg) (rm : BitVec 3)
  /-- `fnmsub.s` (R282). -/
  | fnmsubS (rd rs1 rs2 rs3 : Reg) (rm : BitVec 3)
  /-- `fnmsub.d` (R283). -/
  | fnmsubD (rd rs1 rs2 rs3 : Reg) (rm : BitVec 3)
  /-- `fcvt.s.d` (R284). -/
  | fcvtSD (rd rs1 : Reg) (rm : BitVec 3)
  /-- `fcvt.d.s` (R285). -/
  | fcvtDS (rd rs1 : Reg) (rm : BitVec 3)
  -- RV64F/RV64D integer conversions (49_fp_int_convert.md)
  /-- `fcvt.s.w` (R286). -/
  | fcvtSW (rd rs1 : Reg) (rm : BitVec 3)
  /-- `fcvt.d.w` (R287). -/
  | fcvtDW (rd rs1 : Reg) (rm : BitVec 3)
  /-- `fcvt.s.l` (R288). -/
  | fcvtSL (rd rs1 : Reg) (rm : BitVec 3)
  /-- `fcvt.d.l` (R289). -/
  | fcvtDL (rd rs1 : Reg) (rm : BitVec 3)
  /-- `fcvt.s.wu` (R290). -/
  | fcvtSWu (rd rs1 : Reg) (rm : BitVec 3)
  /-- `fcvt.d.wu` (R291). -/
  | fcvtDWu (rd rs1 : Reg) (rm : BitVec 3)
  /-- `fcvt.s.lu` (R292). -/
  | fcvtSLu (rd rs1 : Reg) (rm : BitVec 3)
  /-- `fcvt.d.lu` (R293). -/
  | fcvtDLu (rd rs1 : Reg) (rm : BitVec 3)
  /-- `fcvt.w.s` (R294). -/
  | fcvtWS (rd rs1 : Reg) (rm : BitVec 3)
  /-- `fcvt.w.d` (R295). -/
  | fcvtWD (rd rs1 : Reg) (rm : BitVec 3)
  /-- `fcvt.l.s` (R296). -/
  | fcvtLS (rd rs1 : Reg) (rm : BitVec 3)
  /-- `fcvt.l.d` (R297). -/
  | fcvtLD (rd rs1 : Reg) (rm : BitVec 3)
  /-- `fcvt.wu.s` (R298). -/
  | fcvtWuS (rd rs1 : Reg) (rm : BitVec 3)
  /-- `fcvt.wu.d` (R299). -/
  | fcvtWuD (rd rs1 : Reg) (rm : BitVec 3)
  /-- `fcvt.lu.s` (R300). -/
  | fcvtLuS (rd rs1 : Reg) (rm : BitVec 3)
  /-- `fcvt.lu.d` (R301). -/
  | fcvtLuD (rd rs1 : Reg) (rm : BitVec 3)
  -- RV64A (47_atomic.md)
  /-- `amoadd.w` (R312). -/
  | amoaddW (rd rs1 rs2 : Reg) (aq rl : Bool)
  /-- `amoadd.d` (R313). -/
  | amoaddD (rd rs1 rs2 : Reg) (aq rl : Bool)
  /-- `amoand.w` (R314). -/
  | amoandW (rd rs1 rs2 : Reg) (aq rl : Bool)
  /-- `amoand.d` (R315). -/
  | amoandD (rd rs1 rs2 : Reg) (aq rl : Bool)
  /-- `amomax.w` (R316). -/
  | amomaxW (rd rs1 rs2 : Reg) (aq rl : Bool)
  /-- `amomax.d` (R317). -/
  | amomaxD (rd rs1 rs2 : Reg) (aq rl : Bool)
  /-- `amomaxu.w` (R318). -/
  | amomaxuW (rd rs1 rs2 : Reg) (aq rl : Bool)
  /-- `amomaxu.d` (R319). -/
  | amomaxuD (rd rs1 rs2 : Reg) (aq rl : Bool)
  /-- `amomin.w` (R320). -/
  | amominW (rd rs1 rs2 : Reg) (aq rl : Bool)
  /-- `amomin.d` (R321). -/
  | amominD (rd rs1 rs2 : Reg) (aq rl : Bool)
  /-- `amominu.w` (R322). -/
  | amominuW (rd rs1 rs2 : Reg) (aq rl : Bool)
  /-- `amominu.d` (R323). -/
  | amominuD (rd rs1 rs2 : Reg) (aq rl : Bool)
  /-- `amoor.w` (R324). -/
  | amoorW (rd rs1 rs2 : Reg) (aq rl : Bool)
  /-- `amoor.d` (R325). -/
  | amoorD (rd rs1 rs2 : Reg) (aq rl : Bool)
  /-- `amoswap.w` (R326). -/
  | amoswapW (rd rs1 rs2 : Reg) (aq rl : Bool)
  /-- `amoswap.d` (R327). -/
  | amoswapD (rd rs1 rs2 : Reg) (aq rl : Bool)
  /-- `amoxor.w` (R328). -/
  | amoxorW (rd rs1 rs2 : Reg) (aq rl : Bool)
  /-- `amoxor.d` (R329). -/
  | amoxorD (rd rs1 rs2 : Reg) (aq rl : Bool)
  /-- `lr.w` (R330). -/
  | lrW (rd rs1 : Reg) (aq rl : Bool)
  /-- `lr.d` (R331). -/
  | lrD (rd rs1 : Reg) (aq rl : Bool)
  /-- `sc.w` (R332). -/
  | scW (rd rs1 rs2 : Reg) (aq rl : Bool)
  /-- `sc.d` (R333). -/
  | scD (rd rs1 rs2 : Reg) (aq rl : Bool)
  deriving DecidableEq, Repr

end Sys2Proof
end

