-- ==== Sys2Proof/WellFormed.lean ====
section
/-! DEFINITION. Which terms of `Instr` stand for an instruction word. -/

namespace Sys2Proof

/-- An instruction that some word encodes. Every field's width is in its type, so the one thing left to check is that the
offset of a branch or of `jal` is a multiple of 2: the encoding has no place for bit 0 (30_encoding.md R87, R89). -/
def Instr.wf : Instr → Bool
  | .add _ _ _ | .addw _ _ _ | .addi _ _ _ | .addiw _ _ _
  | .and _ _ _ | .andi _ _ _ | .auipc _ _ | .lui _ _
  | .or _ _ _ | .ori _ _ _ | .sll _ _ _ | .sllw _ _ _
  | .slli _ _ _ | .slliw _ _ _ | .slt _ _ _ | .slti _ _ _
  | .sltiu _ _ _ | .sltu _ _ _ | .sra _ _ _ | .sraw _ _ _
  | .srai _ _ _ | .sraiw _ _ _ | .srl _ _ _ | .srlw _ _ _
  | .srli _ _ _ | .srliw _ _ _ | .sub _ _ _ | .subw _ _ _
  | .xor _ _ _ | .xori _ _ _ => true
  | .beq _ _ off => !off.getLsbD 0
  | .bne _ _ off => !off.getLsbD 0
  | .blt _ _ off => !off.getLsbD 0
  | .bge _ _ off => !off.getLsbD 0
  | .bltu _ _ off => !off.getLsbD 0
  | .bgeu _ _ off => !off.getLsbD 0
  | .jal _ off => !off.getLsbD 0
  | .jalr _ _ _ => true
  | .lb _ _ _ | .lbu _ _ _ | .lh _ _ _ | .lhu _ _ _
  | .lw _ _ _ | .lwu _ _ _ | .ld _ _ _ | .sb _ _ _
  | .sh _ _ _ | .sw _ _ _ | .sd _ _ _ => true
  | .csrrw _ _ _ | .csrrs _ _ _ | .csrrc _ _ _ | .csrrwi _ _ _
  | .csrrsi _ _ _ | .csrrci _ _ _ | .ecall | .ebreak
  | .fence _ _ _ _ _ | .fenceI _ _ _ => true
  | .mul _ _ _ | .mulw _ _ _ | .mulh _ _ _ | .mulhu _ _ _
  | .mulhsu _ _ _ | .div _ _ _ | .divw _ _ _ | .divu _ _ _
  | .divuw _ _ _ | .rem _ _ _ | .remw _ _ _ | .remu _ _ _
  | .remuw _ _ _ => true
  | .flw _ _ _ | .fld _ _ _ | .fsw _ _ _ | .fsd _ _ _
  | .fsgnjS _ _ _ | .fsgnjD _ _ _ | .fsgnjnS _ _ _ | .fsgnjnD _ _ _
  | .fsgnjxS _ _ _ | .fsgnjxD _ _ _ | .fminS _ _ _ | .fminD _ _ _
  | .fmaxS _ _ _ | .fmaxD _ _ _ | .feqS _ _ _ | .feqD _ _ _
  | .fltS _ _ _ | .fltD _ _ _ | .fleS _ _ _ | .fleD _ _ _
  | .fclassS _ _ | .fclassD _ _ | .fmvSX _ _ | .fmvDX _ _
  | .fmvXS _ _ | .fmvXD _ _ => true
  | .faddS _ _ _ _ | .faddD _ _ _ _ | .fsubS _ _ _ _ | .fsubD _ _ _ _
  | .fmulS _ _ _ _ | .fmulD _ _ _ _ | .fdivS _ _ _ _ | .fdivD _ _ _ _
  | .fsqrtS _ _ _ | .fsqrtD _ _ _ | .fmaddS _ _ _ _ _ | .fmaddD _ _ _ _ _
  | .fmsubS _ _ _ _ _ | .fmsubD _ _ _ _ _ | .fnmaddS _ _ _ _ _ | .fnmaddD _ _ _ _ _
  | .fnmsubS _ _ _ _ _ | .fnmsubD _ _ _ _ _ | .fcvtSD _ _ _ | .fcvtDS _ _ _ => true
  | .fcvtSW _ _ _ | .fcvtDW _ _ _ | .fcvtSL _ _ _ | .fcvtDL _ _ _
  | .fcvtSWu _ _ _ | .fcvtDWu _ _ _ | .fcvtSLu _ _ _ | .fcvtDLu _ _ _
  | .fcvtWS _ _ _ | .fcvtWD _ _ _ | .fcvtLS _ _ _ | .fcvtLD _ _ _
  | .fcvtWuS _ _ _ | .fcvtWuD _ _ _ | .fcvtLuS _ _ _ | .fcvtLuD _ _ _ => true
  | .amoaddW _ _ _ _ _ | .amoaddD _ _ _ _ _ | .amoandW _ _ _ _ _ | .amoandD _ _ _ _ _
  | .amomaxW _ _ _ _ _ | .amomaxD _ _ _ _ _ | .amomaxuW _ _ _ _ _ | .amomaxuD _ _ _ _ _
  | .amominW _ _ _ _ _ | .amominD _ _ _ _ _ | .amominuW _ _ _ _ _ | .amominuD _ _ _ _ _
  | .amoorW _ _ _ _ _ | .amoorD _ _ _ _ _ | .amoswapW _ _ _ _ _ | .amoswapD _ _ _ _ _
  | .amoxorW _ _ _ _ _ | .amoxorD _ _ _ _ _ | .lrW _ _ _ _ | .lrD _ _ _ _
  | .scW _ _ _ _ _ | .scD _ _ _ _ _ => true

/-- `Instr.wf` as a proposition. -/
abbrev Instr.WellFormed (i : Instr) : Prop := i.wf = true

end Sys2Proof
end

