-- ==== Sys2Proof/Decode.lean ====
section
/-! DEFINITION. Instruction words: the fields (30_encoding.md R80 to R90), the decoder, the encoder and the opcode table.

Both directions are written on the six fixed fields of R82 (funct7, rs2, rs1, funct3, rd, opcode), which tile bits 31:0 in
every format; the other formats only name pieces and concatenations of them. The bit patterns of RV64M, RV64A, RV64F and
RV64D are R93 to R98. -/

namespace Sys2Proof

-- ==== The fields of a word (R82) ====

/-- `inst[6:0]` (R82). -/
def opcodeOf (w : Word) : BitVec 7 := w.extractLsb' 0 7

/-- `inst[11:7]` (R82). -/
def rdOf (w : Word) : Reg := w.extractLsb' 7 5

/-- `inst[14:12]` (R82). -/
def funct3Of (w : Word) : BitVec 3 := w.extractLsb' 12 3

/-- `inst[19:15]` (R82). -/
def rs1Of (w : Word) : Reg := w.extractLsb' 15 5

/-- `inst[24:20]` (R82). -/
def rs2Of (w : Word) : Reg := w.extractLsb' 20 5

/-- `inst[31:25]` (R82). -/
def funct7Of (w : Word) : BitVec 7 := w.extractLsb' 25 7

/-- The word with the six fields of format R (R81, R82). -/
def encR (f7 : BitVec 7) (rs2 rs1 : Reg) (f3 : BitVec 3) (rd : Reg) (op : BitVec 7) : Word :=
  f7 ++ rs2 ++ rs1 ++ f3 ++ rd ++ op

-- ==== Immediates out of the fields (R85 to R90) ====

/-- The 12-bit immediate of format I, and the CSR address: `inst[31:20]` (R85, R90). -/
def immI (f7 : BitVec 7) (rs2 : Reg) : BitVec 12 := f7 ++ rs2

/-- The 12-bit immediate of format S: `inst[31:25] ++ inst[11:7]` (R86). -/
def immS (f7 : BitVec 7) (rd : Reg) : BitVec 12 := f7 ++ rd

/-- The 13-bit offset of format SB, bit 0 zero (R87). -/
def immSB (f7 : BitVec 7) (rd : Reg) : BitVec 13 :=
  f7.extractLsb' 6 1 ++ rd.extractLsb' 0 1 ++ f7.extractLsb' 0 6 ++ rd.extractLsb' 1 4 ++ 0#1

/-- The 20 bits `inst[31:12]` of formats U and UJ (R81, R88). -/
def immU (f7 : BitVec 7) (rs2 rs1 : Reg) (f3 : BitVec 3) : BitVec 20 := f7 ++ rs2 ++ rs1 ++ f3

/-- The 21-bit offset of format UJ, bit 0 zero, out of `inst[31:12]` (R89). -/
def immUJ (u : BitVec 20) : BitVec 21 :=
  u.extractLsb' 19 1 ++ u.extractLsb' 0 8 ++ u.extractLsb' 8 1 ++ u.extractLsb' 9 10 ++ 0#1

/-- The 6-bit shift amount `inst[25:20]` of `slli`, `srli`, `srai` (R83, R90). -/
def shamt6 (f7 : BitVec 7) (rs2 : Reg) : BitVec 6 := f7.extractLsb' 0 1 ++ rs2

-- ==== The decoder (R99, R100) ====

/-- Why a word is no instruction (R100 item 1). Each reason is one way for a word to match no row of the table; all of them
raise the same `IllegalInstruction`. -/
inductive Reject where
  /-- `inst[1:0]` is not 11 (R80). -/
  | notThirtyTwoBits
  /-- `inst[6:0]` selects no instruction (R91, R104). -/
  | unusedOpcode
  /-- The funct3 value selects nothing under the opcode (R92 to R97). -/
  | unusedFunct3
  /-- The funct7, funct6, funct5 or fmt value selects nothing under the opcode and funct3 (R92 to R97). -/
  | unusedFunct7
  /-- The rs2 field is a code that selects nothing (R94, R96). -/
  | unusedRs2Code
  /-- A SYSTEM word with funct3 000 other than the two words of `ecall` and `ebreak` (R101). -/
  | unusedSystemWord
  deriving DecidableEq, Repr

/-- What a word decodes to: the one instruction whose row it matches, or the reason it matches none. -/
abbrev Decoded := Except Reject Instr

/-- LOAD, opcode 0000011 (R92). -/
def decodeLoad (imm : BitVec 12) (rs1 : Reg) (f3 : BitVec 3) (rd : Reg) : Decoded :=
  match f3 with
  | 0b000#3 => .ok (.lb rd rs1 imm)
  | 0b001#3 => .ok (.lh rd rs1 imm)
  | 0b010#3 => .ok (.lw rd rs1 imm)
  | 0b011#3 => .ok (.ld rd rs1 imm)
  | 0b100#3 => .ok (.lbu rd rs1 imm)
  | 0b101#3 => .ok (.lhu rd rs1 imm)
  | 0b110#3 => .ok (.lwu rd rs1 imm)
  | _ => .error .unusedFunct3

/-- LOAD-FP, opcode 0000111 (R95). -/
def decodeLoadFp (imm : BitVec 12) (rs1 : Reg) (f3 : BitVec 3) (rd : Reg) : Decoded :=
  match f3 with
  | 0b010#3 => .ok (.flw rd rs1 imm)
  | 0b011#3 => .ok (.fld rd rs1 imm)
  | _ => .error .unusedFunct3

/-- MISC-MEM, opcode 0001111; every other field is ignored (R102). -/
def decodeMiscMem (imm : BitVec 12) (rs1 : Reg) (f3 : BitVec 3) (rd : Reg) : Decoded :=
  match f3 with
  | 0b000#3 => .ok (.fence (imm.extractLsb' 8 4) (imm.extractLsb' 4 4) (imm.extractLsb' 0 4) rs1 rd)
  | 0b001#3 => .ok (.fenceI imm rs1 rd)
  | _ => .error .unusedFunct3

/-- OP-IMM, opcode 0010011; the shifts match the six bits 31:26 (R92, R83). -/
def decodeOpImm (f7 : BitVec 7) (rs2 rs1 : Reg) (f3 : BitVec 3) (rd : Reg) : Decoded :=
  let imm := immI f7 rs2
  match f3 with
  | 0b000#3 => .ok (.addi rd rs1 imm)
  | 0b001#3 => match f7.extractLsb' 1 6 with
    | 0b000000#6 => .ok (.slli rd rs1 (shamt6 f7 rs2))
    | _ => .error .unusedFunct7
  | 0b010#3 => .ok (.slti rd rs1 imm)
  | 0b011#3 => .ok (.sltiu rd rs1 imm)
  | 0b100#3 => .ok (.xori rd rs1 imm)
  | 0b101#3 => match f7.extractLsb' 1 6 with
    | 0b000000#6 => .ok (.srli rd rs1 (shamt6 f7 rs2))
    | 0b010000#6 => .ok (.srai rd rs1 (shamt6 f7 rs2))
    | _ => .error .unusedFunct7
  | 0b110#3 => .ok (.ori rd rs1 imm)
  | _ => .ok (.andi rd rs1 imm)

/-- OP-IMM-32, opcode 0011011; the shifts match the seven bits 31:25 (R92). -/
def decodeOpImm32 (f7 : BitVec 7) (rs2 rs1 : Reg) (f3 : BitVec 3) (rd : Reg) : Decoded :=
  match f3 with
  | 0b000#3 => .ok (.addiw rd rs1 (immI f7 rs2))
  | 0b001#3 => match f7 with
    | 0b0000000#7 => .ok (.slliw rd rs1 rs2)
    | _ => .error .unusedFunct7
  | 0b101#3 => match f7 with
    | 0b0000000#7 => .ok (.srliw rd rs1 rs2)
    | 0b0100000#7 => .ok (.sraiw rd rs1 rs2)
    | _ => .error .unusedFunct7
  | _ => .error .unusedFunct3

/-- STORE, opcode 0100011 (R92). -/
def decodeStore (f7 : BitVec 7) (rs2 rs1 : Reg) (f3 : BitVec 3) (rd : Reg) : Decoded :=
  match f3 with
  | 0b000#3 => .ok (.sb rs1 rs2 (immS f7 rd))
  | 0b001#3 => .ok (.sh rs1 rs2 (immS f7 rd))
  | 0b010#3 => .ok (.sw rs1 rs2 (immS f7 rd))
  | 0b011#3 => .ok (.sd rs1 rs2 (immS f7 rd))
  | _ => .error .unusedFunct3

/-- STORE-FP, opcode 0100111 (R95). -/
def decodeStoreFp (f7 : BitVec 7) (rs2 rs1 : Reg) (f3 : BitVec 3) (rd : Reg) : Decoded :=
  match f3 with
  | 0b010#3 => .ok (.fsw rs1 rs2 (immS f7 rd))
  | 0b011#3 => .ok (.fsd rs1 rs2 (immS f7 rd))
  | _ => .error .unusedFunct3

/-- OP, opcode 0110011: base rows and RV64M (R92, R93). -/
def decodeOp (f7 : BitVec 7) (rs2 rs1 : Reg) (f3 : BitVec 3) (rd : Reg) : Decoded :=
  match f7 with
  | 0b0000000#7 => match f3 with
    | 0b000#3 => .ok (.add rd rs1 rs2)
    | 0b001#3 => .ok (.sll rd rs1 rs2)
    | 0b010#3 => .ok (.slt rd rs1 rs2)
    | 0b011#3 => .ok (.sltu rd rs1 rs2)
    | 0b100#3 => .ok (.xor rd rs1 rs2)
    | 0b101#3 => .ok (.srl rd rs1 rs2)
    | 0b110#3 => .ok (.or rd rs1 rs2)
    | _ => .ok (.and rd rs1 rs2)
  | 0b0000001#7 => match f3 with
    | 0b000#3 => .ok (.mul rd rs1 rs2)
    | 0b001#3 => .ok (.mulh rd rs1 rs2)
    | 0b010#3 => .ok (.mulhsu rd rs1 rs2)
    | 0b011#3 => .ok (.mulhu rd rs1 rs2)
    | 0b100#3 => .ok (.div rd rs1 rs2)
    | 0b101#3 => .ok (.divu rd rs1 rs2)
    | 0b110#3 => .ok (.rem rd rs1 rs2)
    | _ => .ok (.remu rd rs1 rs2)
  | 0b0100000#7 => match f3 with
    | 0b000#3 => .ok (.sub rd rs1 rs2)
    | 0b101#3 => .ok (.sra rd rs1 rs2)
    | _ => .error .unusedFunct3
  | _ => .error .unusedFunct7

/-- OP-32, opcode 0111011: base rows and RV64M (R92, R93). -/
def decodeOp32 (f7 : BitVec 7) (rs2 rs1 : Reg) (f3 : BitVec 3) (rd : Reg) : Decoded :=
  match f7 with
  | 0b0000000#7 => match f3 with
    | 0b000#3 => .ok (.addw rd rs1 rs2)
    | 0b001#3 => .ok (.sllw rd rs1 rs2)
    | 0b101#3 => .ok (.srlw rd rs1 rs2)
    | _ => .error .unusedFunct3
  | 0b0000001#7 => match f3 with
    | 0b000#3 => .ok (.mulw rd rs1 rs2)
    | 0b100#3 => .ok (.divw rd rs1 rs2)
    | 0b101#3 => .ok (.divuw rd rs1 rs2)
    | 0b110#3 => .ok (.remw rd rs1 rs2)
    | 0b111#3 => .ok (.remuw rd rs1 rs2)
    | _ => .error .unusedFunct3
  | 0b0100000#7 => match f3 with
    | 0b000#3 => .ok (.subw rd rs1 rs2)
    | 0b101#3 => .ok (.sraw rd rs1 rs2)
    | _ => .error .unusedFunct3
  | _ => .error .unusedFunct7

/-- BRANCH, opcode 1100011 (R92). -/
def decodeBranch (f7 : BitVec 7) (rs2 rs1 : Reg) (f3 : BitVec 3) (rd : Reg) : Decoded :=
  match f3 with
  | 0b000#3 => .ok (.beq rs1 rs2 (immSB f7 rd))
  | 0b001#3 => .ok (.bne rs1 rs2 (immSB f7 rd))
  | 0b100#3 => .ok (.blt rs1 rs2 (immSB f7 rd))
  | 0b101#3 => .ok (.bge rs1 rs2 (immSB f7 rd))
  | 0b110#3 => .ok (.bltu rs1 rs2 (immSB f7 rd))
  | 0b111#3 => .ok (.bgeu rs1 rs2 (immSB f7 rd))
  | _ => .error .unusedFunct3

/-- JALR, opcode 1100111 (R92). -/
def decodeJalr (imm : BitVec 12) (rs1 : Reg) (f3 : BitVec 3) (rd : Reg) : Decoded :=
  match f3 with
  | 0b000#3 => .ok (.jalr rd rs1 imm)
  | _ => .error .unusedFunct3

/-- SYSTEM, opcode 1110011: `ecall` and `ebreak` are matched on all 32 bits (R101). -/
def decodeSystem (imm : BitVec 12) (rs1 : Reg) (f3 : BitVec 3) (rd : Reg) : Decoded :=
  match f3 with
  | 0b000#3 =>
    if rs1 = 0#5 ∧ rd = 0#5 then
      match imm with
      | 0x000#12 => .ok .ecall
      | 0x001#12 => .ok .ebreak
      | _ => .error .unusedSystemWord
    else .error .unusedSystemWord
  | 0b001#3 => .ok (.csrrw rd rs1 imm)
  | 0b010#3 => .ok (.csrrs rd rs1 imm)
  | 0b011#3 => .ok (.csrrc rd rs1 imm)
  | 0b100#3 => .error .unusedFunct3
  | 0b101#3 => .ok (.csrrwi rd rs1 imm)
  | 0b110#3 => .ok (.csrrsi rd rs1 imm)
  | _ => .ok (.csrrci rd rs1 imm)

/-- AMO, opcode 0101111, funct3 010: `aq` and `rl` may take any value, `lr` needs the rs2 field 00000 (R94, R311). -/
def decodeAmoW (f7 : BitVec 7) (rs2 rs1 rd : Reg) : Decoded :=
  let aq := f7.getLsbD 1
  let rl := f7.getLsbD 0
  match f7.extractLsb' 2 5 with
  | 0b00000#5 => .ok (.amoaddW rd rs1 rs2 aq rl)
  | 0b00001#5 => .ok (.amoswapW rd rs1 rs2 aq rl)
  | 0b00010#5 => if rs2 = 0#5 then .ok (.lrW rd rs1 aq rl) else .error .unusedRs2Code
  | 0b00011#5 => .ok (.scW rd rs1 rs2 aq rl)
  | 0b00100#5 => .ok (.amoxorW rd rs1 rs2 aq rl)
  | 0b01000#5 => .ok (.amoorW rd rs1 rs2 aq rl)
  | 0b01100#5 => .ok (.amoandW rd rs1 rs2 aq rl)
  | 0b10000#5 => .ok (.amominW rd rs1 rs2 aq rl)
  | 0b10100#5 => .ok (.amomaxW rd rs1 rs2 aq rl)
  | 0b11000#5 => .ok (.amominuW rd rs1 rs2 aq rl)
  | 0b11100#5 => .ok (.amomaxuW rd rs1 rs2 aq rl)
  | _ => .error .unusedFunct7

/-- AMO, opcode 0101111, funct3 011: `aq` and `rl` may take any value, `lr` needs the rs2 field 00000 (R94, R311). -/
def decodeAmoD (f7 : BitVec 7) (rs2 rs1 rd : Reg) : Decoded :=
  let aq := f7.getLsbD 1
  let rl := f7.getLsbD 0
  match f7.extractLsb' 2 5 with
  | 0b00000#5 => .ok (.amoaddD rd rs1 rs2 aq rl)
  | 0b00001#5 => .ok (.amoswapD rd rs1 rs2 aq rl)
  | 0b00010#5 => if rs2 = 0#5 then .ok (.lrD rd rs1 aq rl) else .error .unusedRs2Code
  | 0b00011#5 => .ok (.scD rd rs1 rs2 aq rl)
  | 0b00100#5 => .ok (.amoxorD rd rs1 rs2 aq rl)
  | 0b01000#5 => .ok (.amoorD rd rs1 rs2 aq rl)
  | 0b01100#5 => .ok (.amoandD rd rs1 rs2 aq rl)
  | 0b10000#5 => .ok (.amominD rd rs1 rs2 aq rl)
  | 0b10100#5 => .ok (.amomaxD rd rs1 rs2 aq rl)
  | 0b11000#5 => .ok (.amominuD rd rs1 rs2 aq rl)
  | 0b11100#5 => .ok (.amomaxuD rd rs1 rs2 aq rl)
  | _ => .error .unusedFunct7

/-- AMO, opcode 0101111 (R94). -/
def decodeAmo (f7 : BitVec 7) (rs2 rs1 : Reg) (f3 : BitVec 3) (rd : Reg) : Decoded :=
  match f3 with
  | 0b010#3 => decodeAmoW f7 rs2 rs1 rd
  | 0b011#3 => decodeAmoD f7 rs2 rs1 rd
  | _ => .error .unusedFunct3

/-- `fmadd`, opcode 1000011: rs3 is bits 31:27, fmt bits 26:25, rm bits 14:12 (R97). -/
def decodeFmadd (f7 : BitVec 7) (rs2 rs1 : Reg) (rm : BitVec 3) (rd : Reg) : Decoded :=
  match f7.extractLsb' 0 2 with
  | 0b00#2 => .ok (.fmaddS rd rs1 rs2 (f7.extractLsb' 2 5) rm)
  | 0b01#2 => .ok (.fmaddD rd rs1 rs2 (f7.extractLsb' 2 5) rm)
  | _ => .error .unusedFunct7

/-- `fmsub`, opcode 1000111: rs3 is bits 31:27, fmt bits 26:25, rm bits 14:12 (R97). -/
def decodeFmsub (f7 : BitVec 7) (rs2 rs1 : Reg) (rm : BitVec 3) (rd : Reg) : Decoded :=
  match f7.extractLsb' 0 2 with
  | 0b00#2 => .ok (.fmsubS rd rs1 rs2 (f7.extractLsb' 2 5) rm)
  | 0b01#2 => .ok (.fmsubD rd rs1 rs2 (f7.extractLsb' 2 5) rm)
  | _ => .error .unusedFunct7

/-- `fnmsub`, opcode 1001011: rs3 is bits 31:27, fmt bits 26:25, rm bits 14:12 (R97). -/
def decodeFnmsub (f7 : BitVec 7) (rs2 rs1 : Reg) (rm : BitVec 3) (rd : Reg) : Decoded :=
  match f7.extractLsb' 0 2 with
  | 0b00#2 => .ok (.fnmsubS rd rs1 rs2 (f7.extractLsb' 2 5) rm)
  | 0b01#2 => .ok (.fnmsubD rd rs1 rs2 (f7.extractLsb' 2 5) rm)
  | _ => .error .unusedFunct7

/-- `fnmadd`, opcode 1001111: rs3 is bits 31:27, fmt bits 26:25, rm bits 14:12 (R97). -/
def decodeFnmadd (f7 : BitVec 7) (rs2 rs1 : Reg) (rm : BitVec 3) (rd : Reg) : Decoded :=
  match f7.extractLsb' 0 2 with
  | 0b00#2 => .ok (.fnmaddS rd rs1 rs2 (f7.extractLsb' 2 5) rm)
  | 0b01#2 => .ok (.fnmaddD rd rs1 rs2 (f7.extractLsb' 2 5) rm)
  | _ => .error .unusedFunct7

/-- OP-FP, opcode 1010011 (R96). Where funct3 is the rounding mode every value is taken here, a reserved one too (R98). -/
def decodeOpFp (f7 : BitVec 7) (rs2 rs1 : Reg) (f3 : BitVec 3) (rd : Reg) : Decoded :=
  match f7 with
  | 0b0000000#7 => .ok (.faddS rd rs1 rs2 f3)
  | 0b0000001#7 => .ok (.faddD rd rs1 rs2 f3)
  | 0b0000100#7 => .ok (.fsubS rd rs1 rs2 f3)
  | 0b0000101#7 => .ok (.fsubD rd rs1 rs2 f3)
  | 0b0001000#7 => .ok (.fmulS rd rs1 rs2 f3)
  | 0b0001001#7 => .ok (.fmulD rd rs1 rs2 f3)
  | 0b0001100#7 => .ok (.fdivS rd rs1 rs2 f3)
  | 0b0001101#7 => .ok (.fdivD rd rs1 rs2 f3)
  | 0b0010000#7 => match f3 with
    | 0b000#3 => .ok (.fsgnjS rd rs1 rs2)
    | 0b001#3 => .ok (.fsgnjnS rd rs1 rs2)
    | 0b010#3 => .ok (.fsgnjxS rd rs1 rs2)
    | _ => .error .unusedFunct3
  | 0b0010001#7 => match f3 with
    | 0b000#3 => .ok (.fsgnjD rd rs1 rs2)
    | 0b001#3 => .ok (.fsgnjnD rd rs1 rs2)
    | 0b010#3 => .ok (.fsgnjxD rd rs1 rs2)
    | _ => .error .unusedFunct3
  | 0b0010100#7 => match f3 with
    | 0b000#3 => .ok (.fminS rd rs1 rs2)
    | 0b001#3 => .ok (.fmaxS rd rs1 rs2)
    | _ => .error .unusedFunct3
  | 0b0010101#7 => match f3 with
    | 0b000#3 => .ok (.fminD rd rs1 rs2)
    | 0b001#3 => .ok (.fmaxD rd rs1 rs2)
    | _ => .error .unusedFunct3
  | 0b0100000#7 => match rs2 with
    | 0b00001#5 => .ok (.fcvtSD rd rs1 f3)
    | _ => .error .unusedRs2Code
  | 0b0100001#7 => match rs2 with
    | 0b00000#5 => .ok (.fcvtDS rd rs1 f3)
    | _ => .error .unusedRs2Code
  | 0b0101100#7 => match rs2 with
    | 0b00000#5 => .ok (.fsqrtS rd rs1 f3)
    | _ => .error .unusedRs2Code
  | 0b0101101#7 => match rs2 with
    | 0b00000#5 => .ok (.fsqrtD rd rs1 f3)
    | _ => .error .unusedRs2Code
  | 0b1010000#7 => match f3 with
    | 0b000#3 => .ok (.fleS rd rs1 rs2)
    | 0b001#3 => .ok (.fltS rd rs1 rs2)
    | 0b010#3 => .ok (.feqS rd rs1 rs2)
    | _ => .error .unusedFunct3
  | 0b1010001#7 => match f3 with
    | 0b000#3 => .ok (.fleD rd rs1 rs2)
    | 0b001#3 => .ok (.fltD rd rs1 rs2)
    | 0b010#3 => .ok (.feqD rd rs1 rs2)
    | _ => .error .unusedFunct3
  | 0b1100000#7 => match rs2 with
    | 0b00000#5 => .ok (.fcvtWS rd rs1 f3)
    | 0b00001#5 => .ok (.fcvtWuS rd rs1 f3)
    | 0b00010#5 => .ok (.fcvtLS rd rs1 f3)
    | 0b00011#5 => .ok (.fcvtLuS rd rs1 f3)
    | _ => .error .unusedRs2Code
  | 0b1100001#7 => match rs2 with
    | 0b00000#5 => .ok (.fcvtWD rd rs1 f3)
    | 0b00001#5 => .ok (.fcvtWuD rd rs1 f3)
    | 0b00010#5 => .ok (.fcvtLD rd rs1 f3)
    | 0b00011#5 => .ok (.fcvtLuD rd rs1 f3)
    | _ => .error .unusedRs2Code
  | 0b1101000#7 => match rs2 with
    | 0b00000#5 => .ok (.fcvtSW rd rs1 f3)
    | 0b00001#5 => .ok (.fcvtSWu rd rs1 f3)
    | 0b00010#5 => .ok (.fcvtSL rd rs1 f3)
    | 0b00011#5 => .ok (.fcvtSLu rd rs1 f3)
    | _ => .error .unusedRs2Code
  | 0b1101001#7 => match rs2 with
    | 0b00000#5 => .ok (.fcvtDW rd rs1 f3)
    | 0b00001#5 => .ok (.fcvtDWu rd rs1 f3)
    | 0b00010#5 => .ok (.fcvtDL rd rs1 f3)
    | 0b00011#5 => .ok (.fcvtDLu rd rs1 f3)
    | _ => .error .unusedRs2Code
  | 0b1110000#7 => match rs2 with
    | 0b00000#5 => match f3 with
      | 0b000#3 => .ok (.fmvXS rd rs1)
      | 0b001#3 => .ok (.fclassS rd rs1)
      | _ => .error .unusedFunct3
    | _ => .error .unusedRs2Code
  | 0b1110001#7 => match rs2 with
    | 0b00000#5 => match f3 with
      | 0b000#3 => .ok (.fmvXD rd rs1)
      | 0b001#3 => .ok (.fclassD rd rs1)
      | _ => .error .unusedFunct3
    | _ => .error .unusedRs2Code
  | 0b1111000#7 => match rs2 with
    | 0b00000#5 => match f3 with
      | 0b000#3 => .ok (.fmvSX rd rs1)
      | _ => .error .unusedFunct3
    | _ => .error .unusedRs2Code
  | 0b1111001#7 => match rs2 with
    | 0b00000#5 => match f3 with
      | 0b000#3 => .ok (.fmvDX rd rs1)
      | _ => .error .unusedFunct3
    | _ => .error .unusedRs2Code
  | _ => .error .unusedFunct7

/-- The decoder on the six fields: the opcode map of R91. -/
def decodeFields (f7 : BitVec 7) (rs2 rs1 : Reg) (f3 : BitVec 3) (rd : Reg) (op : BitVec 7) : Decoded :=
  match op with
  | 0b0000011#7 => decodeLoad (immI f7 rs2) rs1 f3 rd
  | 0b0000111#7 => decodeLoadFp (immI f7 rs2) rs1 f3 rd
  | 0b0001111#7 => decodeMiscMem (immI f7 rs2) rs1 f3 rd
  | 0b0010011#7 => decodeOpImm f7 rs2 rs1 f3 rd
  | 0b0010111#7 => .ok (.auipc rd (immU f7 rs2 rs1 f3))
  | 0b0011011#7 => decodeOpImm32 f7 rs2 rs1 f3 rd
  | 0b0100011#7 => decodeStore f7 rs2 rs1 f3 rd
  | 0b0100111#7 => decodeStoreFp f7 rs2 rs1 f3 rd
  | 0b0101111#7 => decodeAmo f7 rs2 rs1 f3 rd
  | 0b0110011#7 => decodeOp f7 rs2 rs1 f3 rd
  | 0b0110111#7 => .ok (.lui rd (immU f7 rs2 rs1 f3))
  | 0b0111011#7 => decodeOp32 f7 rs2 rs1 f3 rd
  | 0b1000011#7 => decodeFmadd f7 rs2 rs1 f3 rd
  | 0b1000111#7 => decodeFmsub f7 rs2 rs1 f3 rd
  | 0b1001011#7 => decodeFnmsub f7 rs2 rs1 f3 rd
  | 0b1001111#7 => decodeFnmadd f7 rs2 rs1 f3 rd
  | 0b1010011#7 => decodeOpFp f7 rs2 rs1 f3 rd
  | 0b1100011#7 => decodeBranch f7 rs2 rs1 f3 rd
  | 0b1100111#7 => decodeJalr (immI f7 rs2) rs1 f3 rd
  | 0b1101111#7 => .ok (.jal rd (immUJ (immU f7 rs2 rs1 f3)))
  | 0b1110011#7 => decodeSystem (immI f7 rs2) rs1 f3 rd
  | _ => .error (if op.extractLsb' 0 2 = 0b11#2 then .unusedOpcode else .notThirtyTwoBits)

/-- The decoder: total on words (R99, R100). -/
def decode (w : Word) : Decoded :=
  decodeFields (funct7Of w) (rs2Of w) (rs1Of w) (funct3Of w) (rdOf w) (opcodeOf w)

/-- The instruction word of the four bytes at `pc`, `pc+1`, `pc+2`, `pc+3`: the byte at the lowest address holds the
opcode (20_memory.md R53). -/
def wordOfBytes (b0 b1 b2 b3 : Byte) : Word := b3 ++ b2 ++ b1 ++ b0

/-- The decoder on any bytes: the instruction they begin with and the bytes after it. Fewer than four bytes are no
instruction (R80). -/
def decodeBytes : List Byte → Option (Decoded × List Byte)
  | b0 :: b1 :: b2 :: b3 :: rest => some (decode (wordOfBytes b0 b1 b2 b3), rest)
  | _ => none

/-- The four bytes of a word in the order of their addresses (20_memory.md R52, R53). -/
def bytesOfWord (w : Word) : List Byte :=
  [w.extractLsb' 0 8, w.extractLsb' 8 8, w.extractLsb' 16 8, w.extractLsb' 24 8]

/-- The instruction the decoder reads from an instruction whose low `nbits` bits are `w`, every bit above them zero, laid
out in memory as the hardware stores it. -/
def decodeTableWord (nbits w : Nat) : Option Instr :=
  match decodeBytes (bytesOfWord (BitVec.ofNat 32 (w % 2 ^ nbits))) with
  | some (.ok i, _) => some i
  | _ => none

-- ==== The encoder (R81 to R98) ====

/-- Format I (R81, R85). -/
def encI (imm : BitVec 12) (rs1 : Reg) (f3 : BitVec 3) (rd : Reg) (op : BitVec 7) : Word :=
  encR (imm.extractLsb' 5 7) (imm.extractLsb' 0 5) rs1 f3 rd op

/-- Format S (R81, R86). -/
def encS (imm : BitVec 12) (rs2 rs1 : Reg) (f3 : BitVec 3) (op : BitVec 7) : Word :=
  encR (imm.extractLsb' 5 7) rs2 rs1 f3 (imm.extractLsb' 0 5) op

/-- Format SB: `imm[12|10:5]` in bits 31:25, `imm[4:1|11]` in bits 11:7 (R81, R87). -/
def encSB (off : BitVec 13) (rs2 rs1 : Reg) (f3 : BitVec 3) (op : BitVec 7) : Word :=
  encR (off.extractLsb' 12 1 ++ off.extractLsb' 5 6) rs2 rs1 f3 (off.extractLsb' 1 4 ++ off.extractLsb' 11 1) op

/-- Format U (R81, R88). -/
def encU (imm : BitVec 20) (rd : Reg) (op : BitVec 7) : Word :=
  encR (imm.extractLsb' 13 7) (imm.extractLsb' 8 5) (imm.extractLsb' 3 5) (imm.extractLsb' 0 3) rd op

/-- Bits 31:12 of format UJ: `imm[20|10:1|11|19:12]` (R81, R89). -/
def fieldUJ (off : BitVec 21) : BitVec 20 :=
  off.extractLsb' 20 1 ++ off.extractLsb' 1 10 ++ off.extractLsb' 11 1 ++ off.extractLsb' 12 8

/-- I-shift64: a six-bit function code and a six-bit amount (R83). -/
def encShift6 (f6 : BitVec 6) (shamt : BitVec 6) (rs1 : Reg) (f3 : BitVec 3) (rd : Reg) (op : BitVec 7) : Word :=
  encR (f6 ++ shamt.extractLsb' 5 1) (shamt.extractLsb' 0 5) rs1 f3 rd op

/-- R-amo: funct5, aq, rl in bits 31:25 (R83). -/
def encAmo (f5 : BitVec 5) (aq rl : Bool) (rs2 rs1 : Reg) (f3 : BitVec 3) (rd : Reg) (op : BitVec 7) : Word :=
  encR (f5 ++ BitVec.ofBool aq ++ BitVec.ofBool rl) rs2 rs1 f3 rd op

/-- R4: rs3 and fmt in bits 31:25 (R83, R97). -/
def encR4 (rs3 : Reg) (fmt : BitVec 2) (rs2 rs1 : Reg) (rm : BitVec 3) (rd : Reg) (op : BitVec 7) : Word :=
  encR (rs3 ++ fmt) rs2 rs1 rm rd op

/-- The word of an instruction: what decodes to it, where the instruction is well formed. -/
def encode : Instr → Word
  | .add rd rs1 rs2 => encR 0b0000000#7 rs2 rs1 0b000#3 rd 0b0110011#7
  | .addw rd rs1 rs2 => encR 0b0000000#7 rs2 rs1 0b000#3 rd 0b0111011#7
  | .addi rd rs1 imm => encI imm rs1 0b000#3 rd 0b0010011#7
  | .addiw rd rs1 imm => encI imm rs1 0b000#3 rd 0b0011011#7
  | .and rd rs1 rs2 => encR 0b0000000#7 rs2 rs1 0b111#3 rd 0b0110011#7
  | .andi rd rs1 imm => encI imm rs1 0b111#3 rd 0b0010011#7
  | .auipc rd imm => encU imm rd 0b0010111#7
  | .lui rd imm => encU imm rd 0b0110111#7
  | .or rd rs1 rs2 => encR 0b0000000#7 rs2 rs1 0b110#3 rd 0b0110011#7
  | .ori rd rs1 imm => encI imm rs1 0b110#3 rd 0b0010011#7
  | .sll rd rs1 rs2 => encR 0b0000000#7 rs2 rs1 0b001#3 rd 0b0110011#7
  | .sllw rd rs1 rs2 => encR 0b0000000#7 rs2 rs1 0b001#3 rd 0b0111011#7
  | .slli rd rs1 shamt => encShift6 0b000000#6 shamt rs1 0b001#3 rd 0b0010011#7
  | .slliw rd rs1 shamt => encR 0b0000000#7 shamt rs1 0b001#3 rd 0b0011011#7
  | .slt rd rs1 rs2 => encR 0b0000000#7 rs2 rs1 0b010#3 rd 0b0110011#7
  | .slti rd rs1 imm => encI imm rs1 0b010#3 rd 0b0010011#7
  | .sltiu rd rs1 imm => encI imm rs1 0b011#3 rd 0b0010011#7
  | .sltu rd rs1 rs2 => encR 0b0000000#7 rs2 rs1 0b011#3 rd 0b0110011#7
  | .sra rd rs1 rs2 => encR 0b0100000#7 rs2 rs1 0b101#3 rd 0b0110011#7
  | .sraw rd rs1 rs2 => encR 0b0100000#7 rs2 rs1 0b101#3 rd 0b0111011#7
  | .srai rd rs1 shamt => encShift6 0b010000#6 shamt rs1 0b101#3 rd 0b0010011#7
  | .sraiw rd rs1 shamt => encR 0b0100000#7 shamt rs1 0b101#3 rd 0b0011011#7
  | .srl rd rs1 rs2 => encR 0b0000000#7 rs2 rs1 0b101#3 rd 0b0110011#7
  | .srlw rd rs1 rs2 => encR 0b0000000#7 rs2 rs1 0b101#3 rd 0b0111011#7
  | .srli rd rs1 shamt => encShift6 0b000000#6 shamt rs1 0b101#3 rd 0b0010011#7
  | .srliw rd rs1 shamt => encR 0b0000000#7 shamt rs1 0b101#3 rd 0b0011011#7
  | .sub rd rs1 rs2 => encR 0b0100000#7 rs2 rs1 0b000#3 rd 0b0110011#7
  | .subw rd rs1 rs2 => encR 0b0100000#7 rs2 rs1 0b000#3 rd 0b0111011#7
  | .xor rd rs1 rs2 => encR 0b0000000#7 rs2 rs1 0b100#3 rd 0b0110011#7
  | .xori rd rs1 imm => encI imm rs1 0b100#3 rd 0b0010011#7
  | .beq rs1 rs2 off => encSB off rs2 rs1 0b000#3 0b1100011#7
  | .bne rs1 rs2 off => encSB off rs2 rs1 0b001#3 0b1100011#7
  | .blt rs1 rs2 off => encSB off rs2 rs1 0b100#3 0b1100011#7
  | .bge rs1 rs2 off => encSB off rs2 rs1 0b101#3 0b1100011#7
  | .bltu rs1 rs2 off => encSB off rs2 rs1 0b110#3 0b1100011#7
  | .bgeu rs1 rs2 off => encSB off rs2 rs1 0b111#3 0b1100011#7
  | .jal rd off => encU (fieldUJ off) rd 0b1101111#7
  | .jalr rd rs1 imm => encI imm rs1 0b000#3 rd 0b1100111#7
  | .lb rd rs1 imm => encI imm rs1 0b000#3 rd 0b0000011#7
  | .lbu rd rs1 imm => encI imm rs1 0b100#3 rd 0b0000011#7
  | .lh rd rs1 imm => encI imm rs1 0b001#3 rd 0b0000011#7
  | .lhu rd rs1 imm => encI imm rs1 0b101#3 rd 0b0000011#7
  | .lw rd rs1 imm => encI imm rs1 0b010#3 rd 0b0000011#7
  | .lwu rd rs1 imm => encI imm rs1 0b110#3 rd 0b0000011#7
  | .ld rd rs1 imm => encI imm rs1 0b011#3 rd 0b0000011#7
  | .sb rs1 rs2 imm => encS imm rs2 rs1 0b000#3 0b0100011#7
  | .sh rs1 rs2 imm => encS imm rs2 rs1 0b001#3 0b0100011#7
  | .sw rs1 rs2 imm => encS imm rs2 rs1 0b010#3 0b0100011#7
  | .sd rs1 rs2 imm => encS imm rs2 rs1 0b011#3 0b0100011#7
  | .csrrw rd rs1 csr => encI csr rs1 0b001#3 rd 0b1110011#7
  | .csrrs rd rs1 csr => encI csr rs1 0b010#3 rd 0b1110011#7
  | .csrrc rd rs1 csr => encI csr rs1 0b011#3 rd 0b1110011#7
  | .csrrwi rd uimm csr => encI csr uimm 0b101#3 rd 0b1110011#7
  | .csrrsi rd uimm csr => encI csr uimm 0b110#3 rd 0b1110011#7
  | .csrrci rd uimm csr => encI csr uimm 0b111#3 rd 0b1110011#7
  | .ecall => encI 0x000#12 0b00000#5 0b000#3 0b00000#5 0b1110011#7
  | .ebreak => encI 0x001#12 0b00000#5 0b000#3 0b00000#5 0b1110011#7
  | .fence fm pred succ rs1 rd => encI (fm ++ pred ++ succ) rs1 0b000#3 rd 0b0001111#7
  | .fenceI imm rs1 rd => encI imm rs1 0b001#3 rd 0b0001111#7
  | .mul rd rs1 rs2 => encR 0b0000001#7 rs2 rs1 0b000#3 rd 0b0110011#7
  | .mulw rd rs1 rs2 => encR 0b0000001#7 rs2 rs1 0b000#3 rd 0b0111011#7
  | .mulh rd rs1 rs2 => encR 0b0000001#7 rs2 rs1 0b001#3 rd 0b0110011#7
  | .mulhu rd rs1 rs2 => encR 0b0000001#7 rs2 rs1 0b011#3 rd 0b0110011#7
  | .mulhsu rd rs1 rs2 => encR 0b0000001#7 rs2 rs1 0b010#3 rd 0b0110011#7
  | .div rd rs1 rs2 => encR 0b0000001#7 rs2 rs1 0b100#3 rd 0b0110011#7
  | .divw rd rs1 rs2 => encR 0b0000001#7 rs2 rs1 0b100#3 rd 0b0111011#7
  | .divu rd rs1 rs2 => encR 0b0000001#7 rs2 rs1 0b101#3 rd 0b0110011#7
  | .divuw rd rs1 rs2 => encR 0b0000001#7 rs2 rs1 0b101#3 rd 0b0111011#7
  | .rem rd rs1 rs2 => encR 0b0000001#7 rs2 rs1 0b110#3 rd 0b0110011#7
  | .remw rd rs1 rs2 => encR 0b0000001#7 rs2 rs1 0b110#3 rd 0b0111011#7
  | .remu rd rs1 rs2 => encR 0b0000001#7 rs2 rs1 0b111#3 rd 0b0110011#7
  | .remuw rd rs1 rs2 => encR 0b0000001#7 rs2 rs1 0b111#3 rd 0b0111011#7
  | .flw rd rs1 imm => encI imm rs1 0b010#3 rd 0b0000111#7
  | .fld rd rs1 imm => encI imm rs1 0b011#3 rd 0b0000111#7
  | .fsw rs1 rs2 imm => encS imm rs2 rs1 0b010#3 0b0100111#7
  | .fsd rs1 rs2 imm => encS imm rs2 rs1 0b011#3 0b0100111#7
  | .fsgnjS rd rs1 rs2 => encR 0b0010000#7 rs2 rs1 0b000#3 rd 0b1010011#7
  | .fsgnjD rd rs1 rs2 => encR 0b0010001#7 rs2 rs1 0b000#3 rd 0b1010011#7
  | .fsgnjnS rd rs1 rs2 => encR 0b0010000#7 rs2 rs1 0b001#3 rd 0b1010011#7
  | .fsgnjnD rd rs1 rs2 => encR 0b0010001#7 rs2 rs1 0b001#3 rd 0b1010011#7
  | .fsgnjxS rd rs1 rs2 => encR 0b0010000#7 rs2 rs1 0b010#3 rd 0b1010011#7
  | .fsgnjxD rd rs1 rs2 => encR 0b0010001#7 rs2 rs1 0b010#3 rd 0b1010011#7
  | .fminS rd rs1 rs2 => encR 0b0010100#7 rs2 rs1 0b000#3 rd 0b1010011#7
  | .fminD rd rs1 rs2 => encR 0b0010101#7 rs2 rs1 0b000#3 rd 0b1010011#7
  | .fmaxS rd rs1 rs2 => encR 0b0010100#7 rs2 rs1 0b001#3 rd 0b1010011#7
  | .fmaxD rd rs1 rs2 => encR 0b0010101#7 rs2 rs1 0b001#3 rd 0b1010011#7
  | .feqS rd rs1 rs2 => encR 0b1010000#7 rs2 rs1 0b010#3 rd 0b1010011#7
  | .feqD rd rs1 rs2 => encR 0b1010001#7 rs2 rs1 0b010#3 rd 0b1010011#7
  | .fltS rd rs1 rs2 => encR 0b1010000#7 rs2 rs1 0b001#3 rd 0b1010011#7
  | .fltD rd rs1 rs2 => encR 0b1010001#7 rs2 rs1 0b001#3 rd 0b1010011#7
  | .fleS rd rs1 rs2 => encR 0b1010000#7 rs2 rs1 0b000#3 rd 0b1010011#7
  | .fleD rd rs1 rs2 => encR 0b1010001#7 rs2 rs1 0b000#3 rd 0b1010011#7
  | .fclassS rd rs1 => encR 0b1110000#7 0b00000#5 rs1 0b001#3 rd 0b1010011#7
  | .fclassD rd rs1 => encR 0b1110001#7 0b00000#5 rs1 0b001#3 rd 0b1010011#7
  | .fmvSX rd rs1 => encR 0b1111000#7 0b00000#5 rs1 0b000#3 rd 0b1010011#7
  | .fmvDX rd rs1 => encR 0b1111001#7 0b00000#5 rs1 0b000#3 rd 0b1010011#7
  | .fmvXS rd rs1 => encR 0b1110000#7 0b00000#5 rs1 0b000#3 rd 0b1010011#7
  | .fmvXD rd rs1 => encR 0b1110001#7 0b00000#5 rs1 0b000#3 rd 0b1010011#7
  | .faddS rd rs1 rs2 rm => encR 0b0000000#7 rs2 rs1 rm rd 0b1010011#7
  | .faddD rd rs1 rs2 rm => encR 0b0000001#7 rs2 rs1 rm rd 0b1010011#7
  | .fsubS rd rs1 rs2 rm => encR 0b0000100#7 rs2 rs1 rm rd 0b1010011#7
  | .fsubD rd rs1 rs2 rm => encR 0b0000101#7 rs2 rs1 rm rd 0b1010011#7
  | .fmulS rd rs1 rs2 rm => encR 0b0001000#7 rs2 rs1 rm rd 0b1010011#7
  | .fmulD rd rs1 rs2 rm => encR 0b0001001#7 rs2 rs1 rm rd 0b1010011#7
  | .fdivS rd rs1 rs2 rm => encR 0b0001100#7 rs2 rs1 rm rd 0b1010011#7
  | .fdivD rd rs1 rs2 rm => encR 0b0001101#7 rs2 rs1 rm rd 0b1010011#7
  | .fsqrtS rd rs1 rm => encR 0b0101100#7 0b00000#5 rs1 rm rd 0b1010011#7
  | .fsqrtD rd rs1 rm => encR 0b0101101#7 0b00000#5 rs1 rm rd 0b1010011#7
  | .fmaddS rd rs1 rs2 rs3 rm => encR4 rs3 0b00#2 rs2 rs1 rm rd 0b1000011#7
  | .fmaddD rd rs1 rs2 rs3 rm => encR4 rs3 0b01#2 rs2 rs1 rm rd 0b1000011#7
  | .fmsubS rd rs1 rs2 rs3 rm => encR4 rs3 0b00#2 rs2 rs1 rm rd 0b1000111#7
  | .fmsubD rd rs1 rs2 rs3 rm => encR4 rs3 0b01#2 rs2 rs1 rm rd 0b1000111#7
  | .fnmaddS rd rs1 rs2 rs3 rm => encR4 rs3 0b00#2 rs2 rs1 rm rd 0b1001111#7
  | .fnmaddD rd rs1 rs2 rs3 rm => encR4 rs3 0b01#2 rs2 rs1 rm rd 0b1001111#7
  | .fnmsubS rd rs1 rs2 rs3 rm => encR4 rs3 0b00#2 rs2 rs1 rm rd 0b1001011#7
  | .fnmsubD rd rs1 rs2 rs3 rm => encR4 rs3 0b01#2 rs2 rs1 rm rd 0b1001011#7
  | .fcvtSD rd rs1 rm => encR 0b0100000#7 0b00001#5 rs1 rm rd 0b1010011#7
  | .fcvtDS rd rs1 rm => encR 0b0100001#7 0b00000#5 rs1 rm rd 0b1010011#7
  | .fcvtSW rd rs1 rm => encR 0b1101000#7 0b00000#5 rs1 rm rd 0b1010011#7
  | .fcvtDW rd rs1 rm => encR 0b1101001#7 0b00000#5 rs1 rm rd 0b1010011#7
  | .fcvtSL rd rs1 rm => encR 0b1101000#7 0b00010#5 rs1 rm rd 0b1010011#7
  | .fcvtDL rd rs1 rm => encR 0b1101001#7 0b00010#5 rs1 rm rd 0b1010011#7
  | .fcvtSWu rd rs1 rm => encR 0b1101000#7 0b00001#5 rs1 rm rd 0b1010011#7
  | .fcvtDWu rd rs1 rm => encR 0b1101001#7 0b00001#5 rs1 rm rd 0b1010011#7
  | .fcvtSLu rd rs1 rm => encR 0b1101000#7 0b00011#5 rs1 rm rd 0b1010011#7
  | .fcvtDLu rd rs1 rm => encR 0b1101001#7 0b00011#5 rs1 rm rd 0b1010011#7
  | .fcvtWS rd rs1 rm => encR 0b1100000#7 0b00000#5 rs1 rm rd 0b1010011#7
  | .fcvtWD rd rs1 rm => encR 0b1100001#7 0b00000#5 rs1 rm rd 0b1010011#7
  | .fcvtLS rd rs1 rm => encR 0b1100000#7 0b00010#5 rs1 rm rd 0b1010011#7
  | .fcvtLD rd rs1 rm => encR 0b1100001#7 0b00010#5 rs1 rm rd 0b1010011#7
  | .fcvtWuS rd rs1 rm => encR 0b1100000#7 0b00001#5 rs1 rm rd 0b1010011#7
  | .fcvtWuD rd rs1 rm => encR 0b1100001#7 0b00001#5 rs1 rm rd 0b1010011#7
  | .fcvtLuS rd rs1 rm => encR 0b1100000#7 0b00011#5 rs1 rm rd 0b1010011#7
  | .fcvtLuD rd rs1 rm => encR 0b1100001#7 0b00011#5 rs1 rm rd 0b1010011#7
  | .amoaddW rd rs1 rs2 aq rl => encAmo 0b00000#5 aq rl rs2 rs1 0b010#3 rd 0b0101111#7
  | .amoaddD rd rs1 rs2 aq rl => encAmo 0b00000#5 aq rl rs2 rs1 0b011#3 rd 0b0101111#7
  | .amoandW rd rs1 rs2 aq rl => encAmo 0b01100#5 aq rl rs2 rs1 0b010#3 rd 0b0101111#7
  | .amoandD rd rs1 rs2 aq rl => encAmo 0b01100#5 aq rl rs2 rs1 0b011#3 rd 0b0101111#7
  | .amomaxW rd rs1 rs2 aq rl => encAmo 0b10100#5 aq rl rs2 rs1 0b010#3 rd 0b0101111#7
  | .amomaxD rd rs1 rs2 aq rl => encAmo 0b10100#5 aq rl rs2 rs1 0b011#3 rd 0b0101111#7
  | .amomaxuW rd rs1 rs2 aq rl => encAmo 0b11100#5 aq rl rs2 rs1 0b010#3 rd 0b0101111#7
  | .amomaxuD rd rs1 rs2 aq rl => encAmo 0b11100#5 aq rl rs2 rs1 0b011#3 rd 0b0101111#7
  | .amominW rd rs1 rs2 aq rl => encAmo 0b10000#5 aq rl rs2 rs1 0b010#3 rd 0b0101111#7
  | .amominD rd rs1 rs2 aq rl => encAmo 0b10000#5 aq rl rs2 rs1 0b011#3 rd 0b0101111#7
  | .amominuW rd rs1 rs2 aq rl => encAmo 0b11000#5 aq rl rs2 rs1 0b010#3 rd 0b0101111#7
  | .amominuD rd rs1 rs2 aq rl => encAmo 0b11000#5 aq rl rs2 rs1 0b011#3 rd 0b0101111#7
  | .amoorW rd rs1 rs2 aq rl => encAmo 0b01000#5 aq rl rs2 rs1 0b010#3 rd 0b0101111#7
  | .amoorD rd rs1 rs2 aq rl => encAmo 0b01000#5 aq rl rs2 rs1 0b011#3 rd 0b0101111#7
  | .amoswapW rd rs1 rs2 aq rl => encAmo 0b00001#5 aq rl rs2 rs1 0b010#3 rd 0b0101111#7
  | .amoswapD rd rs1 rs2 aq rl => encAmo 0b00001#5 aq rl rs2 rs1 0b011#3 rd 0b0101111#7
  | .amoxorW rd rs1 rs2 aq rl => encAmo 0b00100#5 aq rl rs2 rs1 0b010#3 rd 0b0101111#7
  | .amoxorD rd rs1 rs2 aq rl => encAmo 0b00100#5 aq rl rs2 rs1 0b011#3 rd 0b0101111#7
  | .lrW rd rs1 aq rl => encAmo 0b00010#5 aq rl 0b00000#5 rs1 0b010#3 rd 0b0101111#7
  | .lrD rd rs1 aq rl => encAmo 0b00010#5 aq rl 0b00000#5 rs1 0b011#3 rd 0b0101111#7
  | .scW rd rs1 rs2 aq rl => encAmo 0b00011#5 aq rl rs2 rs1 0b010#3 rd 0b0101111#7
  | .scD rd rs1 rs2 aq rl => encAmo 0b00011#5 aq rl rs2 rs1 0b011#3 rd 0b0101111#7

-- ==== The opcode table (R99) ====

/-- A row of spec/opcode_table.json: a word `w` is the row's instruction if and only if `w &&& mask = pattern` (R99). -/
structure Row where
  /-- The instruction's name. -/
  mnemonic : String
  /-- The bits the row fixes. -/
  mask : Word
  /-- Their values. -/
  pattern : Word
  deriving DecidableEq, Repr, Inhabited

/-- The rows of RV64I integer computational (40_integer_computational.md). -/
def rowsInteger : List Row :=
  [ ⟨"add", 0xfe00707f#32, 0x00000033#32⟩
  , ⟨"addw", 0xfe00707f#32, 0x0000003b#32⟩
  , ⟨"addi", 0x0000707f#32, 0x00000013#32⟩
  , ⟨"addiw", 0x0000707f#32, 0x0000001b#32⟩
  , ⟨"and", 0xfe00707f#32, 0x00007033#32⟩
  , ⟨"andi", 0x0000707f#32, 0x00007013#32⟩
  , ⟨"auipc", 0x0000007f#32, 0x00000017#32⟩
  , ⟨"lui", 0x0000007f#32, 0x00000037#32⟩
  , ⟨"or", 0xfe00707f#32, 0x00006033#32⟩
  , ⟨"ori", 0x0000707f#32, 0x00006013#32⟩
  , ⟨"sll", 0xfe00707f#32, 0x00001033#32⟩
  , ⟨"sllw", 0xfe00707f#32, 0x0000103b#32⟩
  , ⟨"slli", 0xfc00707f#32, 0x00001013#32⟩
  , ⟨"slliw", 0xfe00707f#32, 0x0000101b#32⟩
  , ⟨"slt", 0xfe00707f#32, 0x00002033#32⟩
  , ⟨"slti", 0x0000707f#32, 0x00002013#32⟩
  , ⟨"sltiu", 0x0000707f#32, 0x00003013#32⟩
  , ⟨"sltu", 0xfe00707f#32, 0x00003033#32⟩
  , ⟨"sra", 0xfe00707f#32, 0x40005033#32⟩
  , ⟨"sraw", 0xfe00707f#32, 0x4000503b#32⟩
  , ⟨"srai", 0xfc00707f#32, 0x40005013#32⟩
  , ⟨"sraiw", 0xfe00707f#32, 0x4000501b#32⟩
  , ⟨"srl", 0xfe00707f#32, 0x00005033#32⟩
  , ⟨"srlw", 0xfe00707f#32, 0x0000503b#32⟩
  , ⟨"srli", 0xfc00707f#32, 0x00005013#32⟩
  , ⟨"srliw", 0xfe00707f#32, 0x0000501b#32⟩
  , ⟨"sub", 0xfe00707f#32, 0x40000033#32⟩
  , ⟨"subw", 0xfe00707f#32, 0x4000003b#32⟩
  , ⟨"xor", 0xfe00707f#32, 0x00004033#32⟩
  , ⟨"xori", 0x0000707f#32, 0x00004013#32⟩ ]

/-- The rows of RV64I control transfer (41_control_transfer.md). -/
def rowsControl : List Row :=
  [ ⟨"beq", 0x0000707f#32, 0x00000063#32⟩
  , ⟨"bne", 0x0000707f#32, 0x00001063#32⟩
  , ⟨"blt", 0x0000707f#32, 0x00004063#32⟩
  , ⟨"bge", 0x0000707f#32, 0x00005063#32⟩
  , ⟨"bltu", 0x0000707f#32, 0x00006063#32⟩
  , ⟨"bgeu", 0x0000707f#32, 0x00007063#32⟩
  , ⟨"jal", 0x0000007f#32, 0x0000006f#32⟩
  , ⟨"jalr", 0x0000707f#32, 0x00000067#32⟩ ]

/-- The rows of RV64I loads and stores (42_load_store.md). -/
def rowsLoadStore : List Row :=
  [ ⟨"lb", 0x0000707f#32, 0x00000003#32⟩
  , ⟨"lbu", 0x0000707f#32, 0x00004003#32⟩
  , ⟨"lh", 0x0000707f#32, 0x00001003#32⟩
  , ⟨"lhu", 0x0000707f#32, 0x00005003#32⟩
  , ⟨"lw", 0x0000707f#32, 0x00002003#32⟩
  , ⟨"lwu", 0x0000707f#32, 0x00006003#32⟩
  , ⟨"ld", 0x0000707f#32, 0x00003003#32⟩
  , ⟨"sb", 0x0000707f#32, 0x00000023#32⟩
  , ⟨"sh", 0x0000707f#32, 0x00001023#32⟩
  , ⟨"sw", 0x0000707f#32, 0x00002023#32⟩
  , ⟨"sd", 0x0000707f#32, 0x00003023#32⟩ ]

/-- The rows of CSR access, environment call and break, fences (43_system.md). -/
def rowsSystem : List Row :=
  [ ⟨"csrrw", 0x0000707f#32, 0x00001073#32⟩
  , ⟨"csrrs", 0x0000707f#32, 0x00002073#32⟩
  , ⟨"csrrc", 0x0000707f#32, 0x00003073#32⟩
  , ⟨"csrrwi", 0x0000707f#32, 0x00005073#32⟩
  , ⟨"csrrsi", 0x0000707f#32, 0x00006073#32⟩
  , ⟨"csrrci", 0x0000707f#32, 0x00007073#32⟩
  , ⟨"ecall", 0xffffffff#32, 0x00000073#32⟩
  , ⟨"ebreak", 0xffffffff#32, 0x00100073#32⟩
  , ⟨"fence", 0x0000707f#32, 0x0000000f#32⟩
  , ⟨"fence.i", 0x0000707f#32, 0x0000100f#32⟩ ]

/-- The rows of RV64M (44_multiply_divide.md). -/
def rowsMulDiv : List Row :=
  [ ⟨"mul", 0xfe00707f#32, 0x02000033#32⟩
  , ⟨"mulw", 0xfe00707f#32, 0x0200003b#32⟩
  , ⟨"mulh", 0xfe00707f#32, 0x02001033#32⟩
  , ⟨"mulhu", 0xfe00707f#32, 0x02003033#32⟩
  , ⟨"mulhsu", 0xfe00707f#32, 0x02002033#32⟩
  , ⟨"div", 0xfe00707f#32, 0x02004033#32⟩
  , ⟨"divw", 0xfe00707f#32, 0x0200403b#32⟩
  , ⟨"divu", 0xfe00707f#32, 0x02005033#32⟩
  , ⟨"divuw", 0xfe00707f#32, 0x0200503b#32⟩
  , ⟨"rem", 0xfe00707f#32, 0x02006033#32⟩
  , ⟨"remw", 0xfe00707f#32, 0x0200603b#32⟩
  , ⟨"remu", 0xfe00707f#32, 0x02007033#32⟩
  , ⟨"remuw", 0xfe00707f#32, 0x0200703b#32⟩ ]

/-- The rows of RV64F/RV64D loads, stores, sign injection, min/max, compare, classify, moves (45_fp_move_compare.md). -/
def rowsFpMove : List Row :=
  [ ⟨"flw", 0x0000707f#32, 0x00002007#32⟩
  , ⟨"fld", 0x0000707f#32, 0x00003007#32⟩
  , ⟨"fsw", 0x0000707f#32, 0x00002027#32⟩
  , ⟨"fsd", 0x0000707f#32, 0x00003027#32⟩
  , ⟨"fsgnj.s", 0xfe00707f#32, 0x20000053#32⟩
  , ⟨"fsgnj.d", 0xfe00707f#32, 0x22000053#32⟩
  , ⟨"fsgnjn.s", 0xfe00707f#32, 0x20001053#32⟩
  , ⟨"fsgnjn.d", 0xfe00707f#32, 0x22001053#32⟩
  , ⟨"fsgnjx.s", 0xfe00707f#32, 0x20002053#32⟩
  , ⟨"fsgnjx.d", 0xfe00707f#32, 0x22002053#32⟩
  , ⟨"fmin.s", 0xfe00707f#32, 0x28000053#32⟩
  , ⟨"fmin.d", 0xfe00707f#32, 0x2a000053#32⟩
  , ⟨"fmax.s", 0xfe00707f#32, 0x28001053#32⟩
  , ⟨"fmax.d", 0xfe00707f#32, 0x2a001053#32⟩
  , ⟨"feq.s", 0xfe00707f#32, 0xa0002053#32⟩
  , ⟨"feq.d", 0xfe00707f#32, 0xa2002053#32⟩
  , ⟨"flt.s", 0xfe00707f#32, 0xa0001053#32⟩
  , ⟨"flt.d", 0xfe00707f#32, 0xa2001053#32⟩
  , ⟨"fle.s", 0xfe00707f#32, 0xa0000053#32⟩
  , ⟨"fle.d", 0xfe00707f#32, 0xa2000053#32⟩
  , ⟨"fclass.s", 0xfff0707f#32, 0xe0001053#32⟩
  , ⟨"fclass.d", 0xfff0707f#32, 0xe2001053#32⟩
  , ⟨"fmv.s.x", 0xfff0707f#32, 0xf0000053#32⟩
  , ⟨"fmv.d.x", 0xfff0707f#32, 0xf2000053#32⟩
  , ⟨"fmv.x.s", 0xfff0707f#32, 0xe0000053#32⟩
  , ⟨"fmv.x.d", 0xfff0707f#32, 0xe2000053#32⟩ ]

/-- The rows of RV64F/RV64D arithmetic and precision conversions (46_fp_arith_convert.md). -/
def rowsFpArith : List Row :=
  [ ⟨"fadd.s", 0xfe00007f#32, 0x00000053#32⟩
  , ⟨"fadd.d", 0xfe00007f#32, 0x02000053#32⟩
  , ⟨"fsub.s", 0xfe00007f#32, 0x08000053#32⟩
  , ⟨"fsub.d", 0xfe00007f#32, 0x0a000053#32⟩
  , ⟨"fmul.s", 0xfe00007f#32, 0x10000053#32⟩
  , ⟨"fmul.d", 0xfe00007f#32, 0x12000053#32⟩
  , ⟨"fdiv.s", 0xfe00007f#32, 0x18000053#32⟩
  , ⟨"fdiv.d", 0xfe00007f#32, 0x1a000053#32⟩
  , ⟨"fsqrt.s", 0xfff0007f#32, 0x58000053#32⟩
  , ⟨"fsqrt.d", 0xfff0007f#32, 0x5a000053#32⟩
  , ⟨"fmadd.s", 0x0600007f#32, 0x00000043#32⟩
  , ⟨"fmadd.d", 0x0600007f#32, 0x02000043#32⟩
  , ⟨"fmsub.s", 0x0600007f#32, 0x00000047#32⟩
  , ⟨"fmsub.d", 0x0600007f#32, 0x02000047#32⟩
  , ⟨"fnmadd.s", 0x0600007f#32, 0x0000004f#32⟩
  , ⟨"fnmadd.d", 0x0600007f#32, 0x0200004f#32⟩
  , ⟨"fnmsub.s", 0x0600007f#32, 0x0000004b#32⟩
  , ⟨"fnmsub.d", 0x0600007f#32, 0x0200004b#32⟩
  , ⟨"fcvt.s.d", 0xfff0007f#32, 0x40100053#32⟩
  , ⟨"fcvt.d.s", 0xfff0007f#32, 0x42000053#32⟩ ]

/-- The rows of RV64F/RV64D integer conversions (49_fp_int_convert.md). -/
def rowsFpInt : List Row :=
  [ ⟨"fcvt.s.w", 0xfff0007f#32, 0xd0000053#32⟩
  , ⟨"fcvt.d.w", 0xfff0007f#32, 0xd2000053#32⟩
  , ⟨"fcvt.s.l", 0xfff0007f#32, 0xd0200053#32⟩
  , ⟨"fcvt.d.l", 0xfff0007f#32, 0xd2200053#32⟩
  , ⟨"fcvt.s.wu", 0xfff0007f#32, 0xd0100053#32⟩
  , ⟨"fcvt.d.wu", 0xfff0007f#32, 0xd2100053#32⟩
  , ⟨"fcvt.s.lu", 0xfff0007f#32, 0xd0300053#32⟩
  , ⟨"fcvt.d.lu", 0xfff0007f#32, 0xd2300053#32⟩
  , ⟨"fcvt.w.s", 0xfff0007f#32, 0xc0000053#32⟩
  , ⟨"fcvt.w.d", 0xfff0007f#32, 0xc2000053#32⟩
  , ⟨"fcvt.l.s", 0xfff0007f#32, 0xc0200053#32⟩
  , ⟨"fcvt.l.d", 0xfff0007f#32, 0xc2200053#32⟩
  , ⟨"fcvt.wu.s", 0xfff0007f#32, 0xc0100053#32⟩
  , ⟨"fcvt.wu.d", 0xfff0007f#32, 0xc2100053#32⟩
  , ⟨"fcvt.lu.s", 0xfff0007f#32, 0xc0300053#32⟩
  , ⟨"fcvt.lu.d", 0xfff0007f#32, 0xc2300053#32⟩ ]

/-- The rows of RV64A (47_atomic.md). -/
def rowsAtomic : List Row :=
  [ ⟨"amoadd.w", 0xf800707f#32, 0x0000202f#32⟩
  , ⟨"amoadd.d", 0xf800707f#32, 0x0000302f#32⟩
  , ⟨"amoand.w", 0xf800707f#32, 0x6000202f#32⟩
  , ⟨"amoand.d", 0xf800707f#32, 0x6000302f#32⟩
  , ⟨"amomax.w", 0xf800707f#32, 0xa000202f#32⟩
  , ⟨"amomax.d", 0xf800707f#32, 0xa000302f#32⟩
  , ⟨"amomaxu.w", 0xf800707f#32, 0xe000202f#32⟩
  , ⟨"amomaxu.d", 0xf800707f#32, 0xe000302f#32⟩
  , ⟨"amomin.w", 0xf800707f#32, 0x8000202f#32⟩
  , ⟨"amomin.d", 0xf800707f#32, 0x8000302f#32⟩
  , ⟨"amominu.w", 0xf800707f#32, 0xc000202f#32⟩
  , ⟨"amominu.d", 0xf800707f#32, 0xc000302f#32⟩
  , ⟨"amoor.w", 0xf800707f#32, 0x4000202f#32⟩
  , ⟨"amoor.d", 0xf800707f#32, 0x4000302f#32⟩
  , ⟨"amoswap.w", 0xf800707f#32, 0x0800202f#32⟩
  , ⟨"amoswap.d", 0xf800707f#32, 0x0800302f#32⟩
  , ⟨"amoxor.w", 0xf800707f#32, 0x2000202f#32⟩
  , ⟨"amoxor.d", 0xf800707f#32, 0x2000302f#32⟩
  , ⟨"lr.w", 0xf9f0707f#32, 0x1000202f#32⟩
  , ⟨"lr.d", 0xf9f0707f#32, 0x1000302f#32⟩
  , ⟨"sc.w", 0xf800707f#32, 0x1800202f#32⟩
  , ⟨"sc.d", 0xf800707f#32, 0x1800302f#32⟩ ]

/-- The 156 rows, in the table's order, which is that of the constructors of `Instr`. -/
def opcodeTable : List Row :=
  rowsInteger ++ rowsControl ++ rowsLoadStore ++ rowsSystem ++ rowsMulDiv ++ rowsFpMove ++ rowsFpArith ++ rowsFpInt ++ rowsAtomic

/-- The row an instruction comes from. -/
def Instr.row (i : Instr) : Row := opcodeTable.getD i.ctorIdx default

/-- A word matches a row (R99). -/
abbrev Row.Matches (r : Row) (w : Word) : Prop := w &&& r.mask = r.pattern

end Sys2Proof
end

