-- ==== Sys2Proof/Machine/Integer.lean ====
section
/-! DEFINITION. The meanings of the integer computational instructions (40_integer_computational.md R120 to R151).

Each meaning takes the fields of its constructor, in order, and the state. -/

namespace Sys2Proof.Machine

/-- `x[rd] <- v` and `pc <- pc + 4`: the end of an instruction whose only result is an integer register (R120). -/
def State.writeBack (s : State) (rd : Reg) (v : Dword) : Result := (s.writeX rd v).completes

/-- `add` (R122). -/
def execAdd (rd rs1 rs2 : Reg) (s : State) : Result :=
  s.writeBack rd (s.readX rs1 + s.readX rs2)

/-- `addw` (R123). -/
def execAddw (rd rs1 rs2 : Reg) (s : State) : Result :=
  s.writeBack rd (sextWord (s.readXW rs1 + s.readXW rs2))

/-- `addi` (R124). -/
def execAddi (rd rs1 : Reg) (imm : BitVec 12) (s : State) : Result :=
  s.writeBack rd (s.readX rs1 + sextImm imm)

/-- `addiw` (R125). -/
def execAddiw (rd rs1 : Reg) (imm : BitVec 12) (s : State) : Result :=
  s.writeBack rd (sextWord (s.readXW rs1 + imm.signExtend 32))

/-- `and` (R126). -/
def execAnd (rd rs1 rs2 : Reg) (s : State) : Result :=
  s.writeBack rd (s.readX rs1 &&& s.readX rs2)

/-- `andi` (R127). -/
def execAndi (rd rs1 : Reg) (imm : BitVec 12) (s : State) : Result :=
  s.writeBack rd (s.readX rs1 &&& sextImm imm)

/-- `auipc` (R128). -/
def execAuipc (rd : Reg) (imm : BitVec 20) (s : State) : Result :=
  s.writeBack rd (s.pc + upperImm imm)

/-- `lui` (R129). -/
def execLui (rd : Reg) (imm : BitVec 20) (s : State) : Result :=
  s.writeBack rd (upperImm imm)

/-- `or` (R130). -/
def execOr (rd rs1 rs2 : Reg) (s : State) : Result :=
  s.writeBack rd (s.readX rs1 ||| s.readX rs2)

/-- `ori` (R131). -/
def execOri (rd rs1 : Reg) (imm : BitVec 12) (s : State) : Result :=
  s.writeBack rd (s.readX rs1 ||| sextImm imm)

/-- `sll` (R132). -/
def execSll (rd rs1 rs2 : Reg) (s : State) : Result :=
  s.writeBack rd (s.readX rs1 <<< amount6 (s.readX rs2))

/-- `sllw` (R133). -/
def execSllw (rd rs1 rs2 : Reg) (s : State) : Result :=
  s.writeBack rd (sextWord (s.readXW rs1 <<< amount5 (s.readX rs2)))

/-- `slli` (R134). -/
def execSlli (rd rs1 : Reg) (shamt : BitVec 6) (s : State) : Result :=
  s.writeBack rd (s.readX rs1 <<< shamt.toNat)

/-- `slliw` (R135). -/
def execSlliw (rd rs1 : Reg) (shamt : BitVec 5) (s : State) : Result :=
  s.writeBack rd (sextWord (s.readXW rs1 <<< shamt.toNat))

/-- `slt` (R136). -/
def execSlt (rd rs1 rs2 : Reg) (s : State) : Result :=
  s.writeBack rd (ofBit ((s.readX rs1).slt (s.readX rs2)))

/-- `slti` (R137). -/
def execSlti (rd rs1 : Reg) (imm : BitVec 12) (s : State) : Result :=
  s.writeBack rd (ofBit ((s.readX rs1).slt (sextImm imm)))

/-- `sltiu` (R138). -/
def execSltiu (rd rs1 : Reg) (imm : BitVec 12) (s : State) : Result :=
  s.writeBack rd (ofBit ((s.readX rs1).ult (sextImm imm)))

/-- `sltu` (R139). -/
def execSltu (rd rs1 rs2 : Reg) (s : State) : Result :=
  s.writeBack rd (ofBit ((s.readX rs1).ult (s.readX rs2)))

/-- `sra` (R140). -/
def execSra (rd rs1 rs2 : Reg) (s : State) : Result :=
  s.writeBack rd ((s.readX rs1).sshiftRight (amount6 (s.readX rs2)))

/-- `sraw` (R141). -/
def execSraw (rd rs1 rs2 : Reg) (s : State) : Result :=
  s.writeBack rd (sextWord ((s.readXW rs1).sshiftRight (amount5 (s.readX rs2))))

/-- `srai` (R142). -/
def execSrai (rd rs1 : Reg) (shamt : BitVec 6) (s : State) : Result :=
  s.writeBack rd ((s.readX rs1).sshiftRight shamt.toNat)

/-- `sraiw` (R143). -/
def execSraiw (rd rs1 : Reg) (shamt : BitVec 5) (s : State) : Result :=
  s.writeBack rd (sextWord ((s.readXW rs1).sshiftRight shamt.toNat))

/-- `srl` (R144). -/
def execSrl (rd rs1 rs2 : Reg) (s : State) : Result :=
  s.writeBack rd (s.readX rs1 >>> amount6 (s.readX rs2))

/-- `srlw` (R145). -/
def execSrlw (rd rs1 rs2 : Reg) (s : State) : Result :=
  s.writeBack rd (sextWord (s.readXW rs1 >>> amount5 (s.readX rs2)))

/-- `srli` (R146). -/
def execSrli (rd rs1 : Reg) (shamt : BitVec 6) (s : State) : Result :=
  s.writeBack rd (s.readX rs1 >>> shamt.toNat)

/-- `srliw` (R147). -/
def execSrliw (rd rs1 : Reg) (shamt : BitVec 5) (s : State) : Result :=
  s.writeBack rd (sextWord (s.readXW rs1 >>> shamt.toNat))

/-- `sub` (R148). -/
def execSub (rd rs1 rs2 : Reg) (s : State) : Result :=
  s.writeBack rd (s.readX rs1 - s.readX rs2)

/-- `subw` (R149). -/
def execSubw (rd rs1 rs2 : Reg) (s : State) : Result :=
  s.writeBack rd (sextWord (s.readXW rs1 - s.readXW rs2))

/-- `xor` (R150). -/
def execXor (rd rs1 rs2 : Reg) (s : State) : Result :=
  s.writeBack rd (s.readX rs1 ^^^ s.readX rs2)

/-- `xori` (R151). -/
def execXori (rd rs1 : Reg) (imm : BitVec 12) (s : State) : Result :=
  s.writeBack rd (s.readX rs1 ^^^ sextImm imm)

end Sys2Proof.Machine
end

