-- ==== Sys2Proof/Machine/Flags.lean ====
section
/-! DEFINITION. The floating-point status: the accrued flags, the rounding mode, the CSR windows (10_state.md R33 to R37,
45_fp_move_compare.md R227, R228). There are no integer flags (R27). -/

namespace Sys2Proof.Machine

-- ==== The five flags ====

/-- A set of the five exception flags: NV 4, DZ 3, OF 2, UF 1, NX 0 (R34, R228). -/
abbrev Flags := BitVec 5

/-- Invalid operation. -/
def flagNV : Flags := 0b10000

/-- Divide by zero. -/
def flagDZ : Flags := 0b01000

/-- Overflow. -/
def flagOF : Flags := 0b00100

/-- Underflow. -/
def flagUF : Flags := 0b00010

/-- Inexact. -/
def flagNX : Flags := 0b00001

/-- The flag, if the condition holds. -/
def flagIf (c : Bool) (f : Flags) : Flags := if c then f else 0

/-- `fcsr[4:0]` (R35). -/
def State.fflags (s : State) : BitVec 5 := s.fcsr.extractLsb' 0 5

/-- `fcsr[7:5]` (R35). -/
def State.frm (s : State) : BitVec 3 := s.fcsr.extractLsb' 5 3

/-- `fcsr[4:0] <- fcsr[4:0] | F`; frm is untouched (R228). -/
def State.accrue (s : State) (F : Flags) : State := { s with fcsr := s.frm ++ (s.fflags ||| F) }

-- ==== The rounding mode ====

/-- The five rounding modes (R34, R227). -/
inductive RMode where
  /-- 000: to nearest, ties to even. -/
  | rne
  /-- 001: towards zero. -/
  | rtz
  /-- 010: down. -/
  | rdn
  /-- 011: up. -/
  | rup
  /-- 100: to nearest, ties away from zero. -/
  | rmm
  deriving DecidableEq, Repr

/-- The mode a 3-bit code names; 101, 110 and 111 name none (R34). -/
def RMode.ofCode (c : BitVec 3) : Option RMode :=
  match c with
  | 0b000#3 => some .rne
  | 0b001#3 => some .rtz
  | 0b010#3 => some .rdn
  | 0b011#3 => some .rup
  | 0b100#3 => some .rmm
  | _ => none

/-- `rmode(inst)` on the rm field: 111 asks for `fcsr.frm`; none where the instruction is illegal (R227, R98). -/
def State.rmode (s : State) (rm : BitVec 3) : Option RMode :=
  if rm = 0b111#3 then RMode.ofCode s.frm else RMode.ofCode rm

-- ==== The CSRs ====

/-- The CSRs of the model: three, and the three counters under HAS_COUNTERS (R33, R36). -/
inductive Csr where
  /-- 0x001 -/
  | fflags
  /-- 0x002 -/
  | frm
  /-- 0x003 -/
  | fcsr
  /-- 0xC00 -/
  | cycle
  /-- 0xC01 -/
  | time
  /-- 0xC02 -/
  | instret
  deriving DecidableEq, Repr

/-- The CSR at a 12-bit address; none where the address selects no register (R33, R36). -/
def csrAt (hasCounters : Bool) (a : BitVec 12) : Option Csr :=
  match a with
  | 0x001#12 => some .fflags
  | 0x002#12 => some .frm
  | 0x003#12 => some .fcsr
  | 0xC00#12 => if hasCounters then some .cycle else none
  | 0xC01#12 => if hasCounters then some .time else none
  | 0xC02#12 => if hasCounters then some .instret else none
  | _ => none

/-- The counters are read-only (R36, R37). -/
def Csr.readOnly : Csr → Bool
  | .fflags => false
  | .frm => false
  | .fcsr => false
  | .cycle => true
  | .time => true
  | .instret => true

/-- `csr[c]`, and the state after the read: the meaningful bits zero-extended; a counter gives a draw (R35, R36). -/
def State.readCsr (s : State) : Csr → Dword × State
  | .fflags => (s.fflags.setWidth 64, s)
  | .frm => (s.frm.setWidth 64, s)
  | .fcsr => (s.fcsr.setWidth 64, s)
  | .cycle => (Config.freeCounter s.draws, s.drawn)
  | .time => (Config.freeCounter s.draws, s.drawn)
  | .instret => (Config.freeCounter s.draws, s.drawn)

/-- `csr[c] <- v`: the bits outside the CSR's field are ignored (R34, R35). A counter is never written (R36). -/
def State.writeCsr (s : State) (c : Csr) (v : Dword) : State :=
  { s with
    fcsr :=
      match c with
      | .fflags => s.frm ++ v.extractLsb' 0 5
      | .frm => v.extractLsb' 0 3 ++ s.fflags
      | .fcsr => v.extractLsb' 0 8
      | .cycle => s.fcsr
      | .time => s.fcsr
      | .instret => s.fcsr }

end Sys2Proof.Machine
end

