-- ==== Sys2Proof/Machine/Numerics.lean ====
section
/-! DEFINITION. The floating-point numerics: formats and values (45_fp_move_compare.md R225), rounding
(46_fp_arith_convert.md R265), the special operands (R261), the fused operation (R262), conversions to and from integers
(49_fp_int_convert.md R302, R303), comparison, minimum and maximum, classification (R257 to R259).

Every function is on bit patterns held as numbers, so that single and double are one text. Arithmetic is exact, on
integers, and rounds once at the end. -/

namespace Sys2Proof.Machine

-- ==== Formats and values (R225) ====

/-- A binary format: the widths of its exponent and fraction fields (R13, R225). -/
structure Fmt where
  /-- Width of the exponent field. -/
  expBits : Nat
  /-- Width of the fraction field. -/
  fracBits : Nat
  deriving DecidableEq, Repr

/-- Single precision: sign 31, exponent 30:23, fraction 22:0 (R13). -/
def single : Fmt := ⟨8, 23⟩

/-- Double precision: sign 63, exponent 62:52, fraction 51:0 (R13). -/
def double : Fmt := ⟨11, 52⟩

/-- The exponent bias: 127 or 1023. It is also `emax` of R265. -/
def Fmt.bias (F : Fmt) : Int := 2 ^ (F.expBits - 1) - 1

/-- `emin = 1 - Bias` (R265). -/
def Fmt.emin (F : Fmt) : Int := 1 - F.bias

/-- The precision `p`: 24 or 53 (R265). -/
def Fmt.prec (F : Fmt) : Nat := F.fracBits + 1

/-- The value of the sign bit of a pattern. -/
def Fmt.signBit (F : Fmt) (neg : Bool) : Nat := if neg then 2 ^ (F.expBits + F.fracBits) else 0

/-- The value of a bit pattern (R225). A finite value is (-1)^neg × m × 2^e; a zero has m = 0. -/
inductive FpVal where
  /-- A NaN, quiet or signaling; its sign and payload are never propagated (R229). -/
  | nan (signaling : Bool)
  /-- An infinity. -/
  | inf (neg : Bool)
  /-- A zero, a subnormal or a normal number. -/
  | fin (neg : Bool) (m : Nat) (e : Int)
  deriving DecidableEq, Repr

/-- `E`, the exponent field of a pattern. -/
def Fmt.expField (F : Fmt) (v : Nat) : Nat := v / 2 ^ F.fracBits % 2 ^ F.expBits

/-- `T`, the fraction field of a pattern. -/
def Fmt.fracField (F : Fmt) (v : Nat) : Nat := v % 2 ^ F.fracBits

/-- `S`, the sign of a pattern. -/
def Fmt.signField (F : Fmt) (v : Nat) : Bool := decide (v / 2 ^ (F.expBits + F.fracBits) % 2 = 1)

/-- The table of R225. A NaN is signaling where the top fraction bit is 0. -/
def Fmt.unpack (F : Fmt) (v : Nat) : FpVal :=
  if F.expField v = 2 ^ F.expBits - 1 then
    if F.fracField v = 0 then .inf (F.signField v)
    else .nan (decide (F.fracField v < 2 ^ (F.fracBits - 1)))
  else if F.expField v = 0 then .fin (F.signField v) (F.fracField v) (F.emin - F.fracBits)
  else .fin (F.signField v) (2 ^ F.fracBits + F.fracField v) (F.expField v - F.bias - F.fracBits)

/-- The value is a NaN. -/
def FpVal.isNaN : FpVal → Bool
  | .nan _ => true
  | .inf _ => false
  | .fin _ _ _ => false

/-- The value is a signaling NaN. -/
def FpVal.isSignaling : FpVal → Bool
  | .nan signaling => signaling
  | .inf _ => false
  | .fin _ _ _ => false

/-- The value with its sign inverted; a NaN stays a NaN (R262, R268). -/
def FpVal.negate : FpVal → FpVal
  | .nan signaling => .nan signaling
  | .inf neg => .inf (!neg)
  | .fin neg m e => .fin (!neg) m e

/-- The canonical NaN: only the exponent bits and the top fraction bit set (R229). -/
def Fmt.canonicalNaN (F : Fmt) : Nat := (2 ^ F.expBits - 1) * 2 ^ F.fracBits + 2 ^ (F.fracBits - 1)

/-- A zero with a sign. -/
def Fmt.zero (F : Fmt) (neg : Bool) : Nat := F.signBit neg

/-- An infinity with a sign. -/
def Fmt.infinity (F : Fmt) (neg : Bool) : Nat := F.signBit neg + (2 ^ F.expBits - 1) * 2 ^ F.fracBits

/-- `maxfinite` with a sign (R265): the pattern just below infinity. -/
def Fmt.maxFinite (F : Fmt) (neg : Bool) : Nat := F.infinity neg - 1

/-- A result: the pattern and the flags it sets. -/
structure FpOut where
  /-- The bit pattern of the result. -/
  bits : Nat
  /-- The flags to accrue. -/
  flags : Flags
  deriving DecidableEq, Repr

/-- The result of an invalid operation (R261). -/
def Fmt.invalid (F : Fmt) : FpOut := ⟨F.canonicalNaN, flagNV⟩

/-- The result where an operand is a NaN (R261): canonical, NV if one of them is signaling. -/
def Fmt.quieted (F : Fmt) (anySignaling : Bool) : FpOut := ⟨F.canonicalNaN, flagIf anySignaling flagNV⟩

-- ==== Rounding (R265) ====

/-- A real number handed to rounding: its sign and its magnitude `a`. Where `sticky` is false `a = mag × 2^exp`; where it is
true `a` lies strictly between `mag × 2^exp` and `(mag + 1) × 2^exp` (a quotient or a root cut off after enough bits; log
entry 14). -/
structure Exact where
  /-- The number is negative. -/
  neg : Bool
  /-- The integer part of the magnitude in units of `2^exp`. -/
  mag : Nat
  /-- The unit's exponent. -/
  exp : Int
  /-- Something nonzero was cut off below the unit. -/
  sticky : Bool
  deriving DecidableEq, Repr

/-- Whether the magnitude is rounded up to the next multiple, given the lower multiple's quotient `q`, the remainder `r`
out of `2 × half`, and whether anything nonzero lies below the remainder (the direction table of R265). -/
def roundsUp (rm : RMode) (neg : Bool) (q r half : Nat) (sticky : Bool) : Bool :=
  match rm with
  | .rne => decide (half < r) || (decide (r = half) && (sticky || decide (q % 2 = 1)))
  | .rmm => decide (half ≤ r)
  | .rtz => false
  | .rdn => neg && (decide (r ≠ 0) || sticky)
  | .rup => !neg && (decide (r ≠ 0) || sticky)

/-- `q(e)` of R265 for the quantum `2^k`: the quotient of the rounded magnitude by the quantum, and whether it differs from
the exact one. -/
def Exact.quantize (v : Exact) (rm : RMode) (k : Int) : Nat × Bool :=
  if k ≤ v.exp then (v.mag * 2 ^ (v.exp - k).toNat, v.sticky)
  else
    let sh := (k - v.exp).toNat
    let q := v.mag / 2 ^ sh
    let r := v.mag % 2 ^ sh
    (if roundsUp rm v.neg q r (2 ^ (sh - 1)) v.sticky then q + 1 else q, decide (r ≠ 0) || v.sticky)

/-- `q × 2^k < 2^n`. -/
def belowPow (q : Nat) (k n : Int) : Bool :=
  if n ≤ k then decide (q = 0) else decide (q < 2 ^ (n - k).toNat)

/-- `floor(log2 a)` of a nonzero magnitude: `e0` of R265. -/
def Exact.log2 (v : Exact) : Int := v.exp + v.mag.log2

/-- The mode takes an overflowing result of this sign to infinity (R265). -/
def overflowsToInf (rm : RMode) (neg : Bool) : Bool :=
  match rm with
  | .rne => true
  | .rmm => true
  | .rtz => false
  | .rdn => neg
  | .rup => !neg

/-- The pattern of `q × 2^k` where `k` is the exponent of the last place of a value of the format: with the biased exponent
less one put before the fraction, the leading bit of a normal `q` carries into the exponent field. -/
def Fmt.pack (F : Fmt) (neg : Bool) (q : Nat) (k : Int) : Nat :=
  F.signBit neg + (k - (F.emin - F.fracBits)).toNat * 2 ^ F.fracBits + q

/-- `round(Fmt, rm, v, zs)` (R265). -/
def Fmt.round (F : Fmt) (rm : RMode) (v : Exact) (zs : Bool) : FpOut :=
  if v.mag = 0 ∧ v.sticky = false then ⟨F.zero zs, 0⟩
  else
    let ulp : Int → Int := fun e => e - F.fracBits
    let unb := v.quantize rm (ulp v.log2)
    let k := ulp (max v.log2 F.emin)
    let res := v.quantize rm k
    if belowPow res.1 k (F.bias + 1) then
      let tiny := res.2 && belowPow unb.1 (ulp v.log2) F.emin
      ⟨F.pack v.neg res.1 k, flagIf res.2 flagNX ||| flagIf tiny flagUF⟩
    else
      ⟨if overflowsToInf rm v.neg then F.infinity v.neg else F.maxFinite v.neg, flagOF ||| flagNX⟩

-- ==== Arithmetic (R261, R266 to R275) ====

/-- The exact sum of two finite values as a signed integer in units of `2^(min e₁ e₂)`. -/
def exactSum (n₁ : Bool) (m₁ : Nat) (e₁ : Int) (n₂ : Bool) (m₂ : Nat) (e₂ : Int) : Int × Int :=
  let k := min e₁ e₂
  let scaled : Bool → Nat → Int → Int := fun n m e =>
    if n then -(Int.ofNat (m * 2 ^ (e - k).toNat)) else Int.ofNat (m * 2 ^ (e - k).toNat)
  (scaled n₁ m₁ e₁ + scaled n₂ m₂ e₂, k)

/-- A signed integer in units of `2^k` as a number to round. -/
def exactOfInt (i : Int) (k : Int) : Exact := ⟨decide (i < 0), i.natAbs, k, false⟩

/-- The sign of an exact zero sum: the common sign of two operands of one sign, else + except under RDN (R261). -/
def zeroSumSign (rm : RMode) (n₁ n₂ : Bool) : Bool := if n₁ = n₂ then n₁ else decide (rm = .rdn)

/-- `a + b` (R261, R266). -/
def Fmt.addVal (F : Fmt) (rm : RMode) (a b : FpVal) : FpOut :=
  match a, b with
  | .nan s, b => F.quieted (s || b.isSignaling)
  | a, .nan s => F.quieted (s || a.isSignaling)
  | .inf n₁, .inf n₂ => if n₁ = n₂ then ⟨F.infinity n₁, 0⟩ else F.invalid
  | .inf n, .fin _ _ _ => ⟨F.infinity n, 0⟩
  | .fin _ _ _, .inf n => ⟨F.infinity n, 0⟩
  | .fin n₁ m₁ e₁, .fin n₂ m₂ e₂ =>
    let s := exactSum n₁ m₁ e₁ n₂ m₂ e₂
    F.round rm (exactOfInt s.1 s.2) (zeroSumSign rm n₁ n₂)

/-- `a × b` (R261, R270). -/
def Fmt.mulVal (F : Fmt) (rm : RMode) (a b : FpVal) : FpOut :=
  match a, b with
  | .nan s, b => F.quieted (s || b.isSignaling)
  | a, .nan s => F.quieted (s || a.isSignaling)
  | .inf n₁, .inf n₂ => ⟨F.infinity (n₁ != n₂), 0⟩
  | .inf n₁, .fin n₂ m _ => if m = 0 then F.invalid else ⟨F.infinity (n₁ != n₂), 0⟩
  | .fin n₁ m _, .inf n₂ => if m = 0 then F.invalid else ⟨F.infinity (n₁ != n₂), 0⟩
  | .fin n₁ m₁ e₁, .fin n₂ m₂ e₂ => F.round rm ⟨n₁ != n₂, m₁ * m₂, e₁ + e₂, false⟩ (n₁ != n₂)

/-- The quotient of two nonzero finite magnitudes, cut off after enough bits for one rounding: at least `p + 3`, since the
divisor is below `2^p`. -/
def Fmt.quotient (F : Fmt) (neg : Bool) (m₁ : Nat) (e₁ : Int) (m₂ : Nat) (e₂ : Int) : Exact :=
  let sh := 2 * F.prec + 3
  ⟨neg, m₁ * 2 ^ sh / m₂, e₁ - e₂ - sh, decide (m₁ * 2 ^ sh % m₂ ≠ 0)⟩

/-- `a / b` (R261, R272). -/
def Fmt.divVal (F : Fmt) (rm : RMode) (a b : FpVal) : FpOut :=
  match a, b with
  | .nan s, b => F.quieted (s || b.isSignaling)
  | a, .nan s => F.quieted (s || a.isSignaling)
  | .inf _, .inf _ => F.invalid
  | .inf n₁, .fin n₂ _ _ => ⟨F.infinity (n₁ != n₂), 0⟩
  | .fin n₁ _ _, .inf n₂ => ⟨F.zero (n₁ != n₂), 0⟩
  | .fin n₁ m₁ e₁, .fin n₂ m₂ e₂ =>
    if m₂ = 0 then if m₁ = 0 then F.invalid else ⟨F.infinity (n₁ != n₂), flagDZ⟩
    else if m₁ = 0 then ⟨F.zero (n₁ != n₂), 0⟩
    else F.round rm (F.quotient (n₁ != n₂) m₁ e₁ m₂ e₂) (n₁ != n₂)

/-- The integer square root of `n`, built bit by bit from bit `i - 1` down, `r` being the part already found. -/
def isqrtFrom (n : Nat) : Nat → Nat → Nat
  | 0, r => r
  | i + 1, r => isqrtFrom n i (if (r + 2 ^ i) * (r + 2 ^ i) ≤ n then r + 2 ^ i else r)

/-- The integer square root: the greatest `r` with `r × r ≤ n`. -/
def isqrt (n : Nat) : Nat := isqrtFrom n (n.log2 / 2 + 1) 0

/-- The square root of a nonzero finite magnitude, cut off after enough bits for one rounding: the exponent is made even and
the radicand widened until the root has at least `p + 2` bits. -/
def Fmt.root (F : Fmt) (m : Nat) (e : Int) : Exact :=
  let odd : Nat := (e % 2).toNat
  let n := m * 2 ^ odd * 2 ^ (2 * (F.prec + 2))
  let r := isqrt n
  ⟨false, r, (e - odd) / 2 - (F.prec + 2 : Nat), decide (r * r ≠ n)⟩

/-- `sqrt(a)` (R261, R274). -/
def Fmt.sqrtVal (F : Fmt) (rm : RMode) (a : FpVal) : FpOut :=
  match a with
  | .nan s => F.quieted s
  | .inf n => if n then F.invalid else ⟨F.infinity false, 0⟩
  | .fin n m e => if m = 0 then ⟨F.zero n, 0⟩ else if n then F.invalid else F.round rm (F.root m e) false

/-- The product of two operands is ∞ × 0 (R262). -/
def infTimesZero (a b : FpVal) : Bool :=
  match a, b with
  | .inf _, .fin _ m _ => decide (m = 0)
  | .fin _ m _, .inf _ => decide (m = 0)
  | .inf _, .inf _ => false
  | .fin _ _ _, .fin _ _ _ => false
  | .nan _, _ => false
  | _, .nan _ => false

/-- An infinite product of sign `sp` plus `c` (R262). -/
def Fmt.infPlus (F : Fmt) (sp : Bool) (c : FpVal) : FpOut :=
  match c with
  | .inf n₃ => if n₃ = sp then ⟨F.infinity sp, 0⟩ else F.invalid
  | .fin _ _ _ => ⟨F.infinity sp, 0⟩
  | .nan s => F.quieted s

/-- `fused(Fmt, rm, a, b, c, negp, ·)` of R262, `c` already negated where negc is set. -/
def Fmt.fusedVal (F : Fmt) (rm : RMode) (negp : Bool) (a b c : FpVal) : FpOut :=
  if infTimesZero a b then F.invalid
  else
    match a, b, c with
    | .nan s, b, c => F.quieted (s || b.isSignaling || c.isSignaling)
    | a, .nan s, c => F.quieted (s || a.isSignaling || c.isSignaling)
    | _, _, .nan s => F.quieted s
    | .inf n₁, .inf n₂, c => F.infPlus ((n₁ != n₂) != negp) c
    | .inf n₁, .fin n₂ _ _, c => F.infPlus ((n₁ != n₂) != negp) c
    | .fin n₁ _ _, .inf n₂, c => F.infPlus ((n₁ != n₂) != negp) c
    | .fin _ _ _, .fin _ _ _, .inf n₃ => ⟨F.infinity n₃, 0⟩
    | .fin n₁ m₁ e₁, .fin n₂ m₂ e₂, .fin n₃ m₃ e₃ =>
      let sp := (n₁ != n₂) != negp
      let s := exactSum sp (m₁ * m₂) (e₁ + e₂) n₃ m₃ e₃
      F.round rm (exactOfInt s.1 s.2) (zeroSumSign rm sp n₃)

-- ==== On patterns ====

/-- `fadd` on patterns (R266, R267). -/
def Fmt.add (F : Fmt) (rm : RMode) (a b : Nat) : FpOut := F.addVal rm (F.unpack a) (F.unpack b)

/-- `fsub` on patterns: the sum with the second operand's sign inverted (R268, R269). -/
def Fmt.sub (F : Fmt) (rm : RMode) (a b : Nat) : FpOut := F.addVal rm (F.unpack a) (F.unpack b).negate

/-- `fmul` on patterns (R270, R271). -/
def Fmt.mul (F : Fmt) (rm : RMode) (a b : Nat) : FpOut := F.mulVal rm (F.unpack a) (F.unpack b)

/-- `fdiv` on patterns (R272, R273). -/
def Fmt.div (F : Fmt) (rm : RMode) (a b : Nat) : FpOut := F.divVal rm (F.unpack a) (F.unpack b)

/-- `fsqrt` on patterns (R274, R275). -/
def Fmt.sqrt (F : Fmt) (rm : RMode) (a : Nat) : FpOut := F.sqrtVal rm (F.unpack a)

/-- `fused(Fmt, rm, a, b, c, negp, negc)` on patterns (R262). -/
def Fmt.fused (F : Fmt) (rm : RMode) (negp negc : Bool) (a b c : Nat) : FpOut :=
  F.fusedVal rm negp (F.unpack a) (F.unpack b) (if negc then (F.unpack c).negate else F.unpack c)

-- ==== Conversions ====

/-- A pattern of the format `G` converted to the format `F` (R284, R285). -/
def Fmt.convert (F G : Fmt) (rm : RMode) (a : Nat) : FpOut :=
  match G.unpack a with
  | .nan s => F.quieted s
  | .inf n => ⟨F.infinity n, 0⟩
  | .fin n m e => F.round rm ⟨n, m, e, false⟩ n

/-- `round(Fmt, rm, i, +)` of an integer (R303). -/
def Fmt.ofInt (F : Fmt) (rm : RMode) (i : Int) : FpOut := F.round rm (exactOfInt i 0) false

/-- The least and the greatest integer of a destination of `n` bits (R302). -/
def intRange (n : Nat) (signed : Bool) : Int × Int := if signed then (-2 ^ (n - 1), 2 ^ (n - 1) - 1) else (0, 2 ^ n - 1)

/-- `to_int(a, rm, n, signed)`: the integer and the flags (R302). -/
def Fmt.toInt (F : Fmt) (rm : RMode) (n : Nat) (signed : Bool) (a : Nat) : Int × Flags :=
  let lo := (intRange n signed).1
  let hi := (intRange n signed).2
  match F.unpack a with
  | .nan _ => (hi, flagNV)
  | .inf neg => (if neg then lo else hi, flagNV)
  | .fin neg m e =>
    let q := Exact.quantize ⟨neg, m, e, false⟩ rm 0
    let i : Int := if neg then -(Int.ofNat q.1) else Int.ofNat q.1
    if hi < i then (hi, flagNV) else if i < lo then (lo, flagNV) else (i, flagIf q.2 flagNX)

-- ==== Comparison, minimum and maximum, classification (R257 to R259) ====

/-- `value(a) < value(b)`; false where one is a NaN (R258). -/
def FpVal.lt (a b : FpVal) : Bool :=
  match a, b with
  | .nan _, _ => false
  | _, .nan _ => false
  | .inf n₁, .inf n₂ => n₁ && !n₂
  | .inf n, .fin _ _ _ => n
  | .fin _ _ _, .inf n => !n
  | .fin n₁ m₁ e₁, .fin n₂ m₂ e₂ => decide ((exactSum n₁ m₁ e₁ (!n₂) m₂ e₂).1 < 0)

/-- `value(a) = value(b)`; false where one is a NaN, true for zeros of either sign (R258). -/
def FpVal.eq (a b : FpVal) : Bool :=
  match a, b with
  | .nan _, _ => false
  | _, .nan _ => false
  | .inf n₁, .inf n₂ => n₁ == n₂
  | .inf _, .fin _ _ _ => false
  | .fin _ _ _, .inf _ => false
  | .fin n₁ m₁ e₁, .fin n₂ m₂ e₂ => decide ((exactSum n₁ m₁ e₁ (!n₂) m₂ e₂).1 = 0)

/-- A comparison's result and its flags. -/
structure CmpOut where
  /-- The bit written to `x[rd]`. -/
  holds : Bool
  /-- The flags to accrue. -/
  flags : Flags
  deriving DecidableEq, Repr

/-- `feq`: quiet, NV for a signaling NaN only (R244, R258). -/
def Fmt.feq (F : Fmt) (a b : Nat) : CmpOut :=
  ⟨(F.unpack a).eq (F.unpack b), flagIf ((F.unpack a).isSignaling || (F.unpack b).isSignaling) flagNV⟩

/-- `flt`: signaling, NV for any NaN (R246, R258). -/
def Fmt.flt (F : Fmt) (a b : Nat) : CmpOut :=
  ⟨(F.unpack a).lt (F.unpack b), flagIf ((F.unpack a).isNaN || (F.unpack b).isNaN) flagNV⟩

/-- `fle`: signaling, NV for any NaN (R248, R258). -/
def Fmt.fle (F : Fmt) (a b : Nat) : CmpOut :=
  ⟨(F.unpack a).lt (F.unpack b) || (F.unpack a).eq (F.unpack b),
    flagIf ((F.unpack a).isNaN || (F.unpack b).isNaN) flagNV⟩

/-- The value is a zero. -/
def FpVal.isZero : FpVal → Bool
  | .nan _ => false
  | .inf _ => false
  | .fin _ m _ => decide (m = 0)

/-- `fminmax(a, b, which)` on patterns (R257). -/
def Fmt.minmax (F : Fmt) (isMax : Bool) (a b : Nat) : FpOut :=
  let va := F.unpack a
  let vb := F.unpack b
  let flags := flagIf (va.isSignaling || vb.isSignaling) flagNV
  let bits :=
    if va.isNaN && vb.isNaN then F.canonicalNaN
    else if va.isNaN then b
    else if vb.isNaN then a
    else if va.isZero && vb.isZero then
      if isMax then F.zero (F.signField a && F.signField b) else F.zero (F.signField a || F.signField b)
    else if isMax then if vb.lt va then a else b
    else if va.lt vb then a else b
  ⟨bits, flags⟩

/-- The number of the bit of `class_mask` that is set (R259). -/
def Fmt.classBit (F : Fmt) (a : Nat) : Nat :=
  match F.unpack a with
  | .nan s => if s then 8 else 9
  | .inf n => if n then 0 else 7
  | .fin n m _ =>
    if m = 0 then if n then 3 else 4
    else if F.expField a = 0 then if n then 2 else 5
    else if n then 1 else 6

/-- `zext_64(class_mask(v))` (R259). -/
def Fmt.classMask (F : Fmt) (a : Nat) : Dword := BitVec.ofNat 64 (2 ^ F.classBit a)

end Sys2Proof.Machine
end

