-- ==== Sys2Proof/Machine/FpMove.lean ====
section
/-! DEFINITION. The meanings of the floating-point instructions that do not round (45_fp_move_compare.md R230 to R259).

Each meaning takes the fields of its constructor, in order, and the state. -/

namespace Sys2Proof.Machine

/-- `f[rd] <- box(r)`, no flag, `pc <- pc + 4` (R226). -/
def State.putS (s : State) (rd : Reg) (r : Word) : Result := (s.writeS rd r).completes

/-- `f[rd] <- r`, no flag, `pc <- pc + 4`. -/
def State.putD (s : State) (rd : Reg) (r : Dword) : Result := (s.writeF rd r).completes

/-- A single result and its flags (R226, R228, R260). -/
def State.finishS (s : State) (rd : Reg) (o : FpOut) : Result :=
  ((s.writeS rd (BitVec.ofNat 32 o.bits)).accrue o.flags).completes

/-- A double result and its flags (R228, R260). -/
def State.finishD (s : State) (rd : Reg) (o : FpOut) : Result :=
  ((s.writeF rd (BitVec.ofNat 64 o.bits)).accrue o.flags).completes

/-- A comparison's result in `x[rd]`, and its flags (R258). -/
def State.finishCmp (s : State) (rd : Reg) (o : CmpOut) : Result :=
  ((s.writeX rd (ofBit o.holds)).accrue o.flags).completes

/-- A load of `n` bytes at `a` into `f[rd]` (R230, R231). -/
def State.loadF (s : State) (rd : Reg) (a : Dword) (n : Nat) (k : Nat → Dword) : Result :=
  ((s.memRead .load a n).map fun v => s.writeF rd (k v)).finish s

/-- The pattern with its top bit, the sign, replaced (R256). -/
def withSign {w : Nat} (neg : Bool) (v : BitVec (w + 1)) : BitVec (w + 1) :=
  BitVec.ofBool neg ++ v.extractLsb' 0 w |>.cast (Nat.add_comm 1 w)

/-- `flw` (R230): the 32 bits are not interpreted. -/
def execFlw (rd rs1 : Reg) (imm : BitVec 12) (s : State) : Result :=
  s.loadF rd (s.effAddr rs1 imm) 4 (fun v => box (BitVec.ofNat 32 v))

/-- `fld` (R231). -/
def execFld (rd rs1 : Reg) (imm : BitVec 12) (s : State) : Result :=
  s.loadF rd (s.effAddr rs1 imm) 8 (BitVec.ofNat 64)

/-- `fsw` (R232): no NaN-boxing check; `f[rs2][63:32]` is ignored. -/
def execFsw (rs1 rs2 : Reg) (imm : BitVec 12) (s : State) : Result :=
  s.store (s.effAddr rs1 imm) 4 (s.readF rs2).toNat

/-- `fsd` (R233). -/
def execFsd (rs1 rs2 : Reg) (imm : BitVec 12) (s : State) : Result :=
  s.store (s.effAddr rs1 imm) 8 (s.readF rs2).toNat

/-- `fsgnj.s` (R234). -/
def execFsgnjS (rd rs1 rs2 : Reg) (s : State) : Result :=
  s.putS rd (withSign (s.readS rs2).msb (s.readS rs1))

/-- `fsgnj.d` (R235). -/
def execFsgnjD (rd rs1 rs2 : Reg) (s : State) : Result :=
  s.putD rd (withSign (s.readF rs2).msb (s.readF rs1))

/-- `fsgnjn.s` (R236). -/
def execFsgnjnS (rd rs1 rs2 : Reg) (s : State) : Result :=
  s.putS rd (withSign (!(s.readS rs2).msb) (s.readS rs1))

/-- `fsgnjn.d` (R237). -/
def execFsgnjnD (rd rs1 rs2 : Reg) (s : State) : Result :=
  s.putD rd (withSign (!(s.readF rs2).msb) (s.readF rs1))

/-- `fsgnjx.s` (R238). -/
def execFsgnjxS (rd rs1 rs2 : Reg) (s : State) : Result :=
  s.putS rd (withSign ((s.readS rs1).msb ^^ (s.readS rs2).msb) (s.readS rs1))

/-- `fsgnjx.d` (R239). -/
def execFsgnjxD (rd rs1 rs2 : Reg) (s : State) : Result :=
  s.putD rd (withSign ((s.readF rs1).msb ^^ (s.readF rs2).msb) (s.readF rs1))

/-- `fmin.s` (R240). -/
def execFminS (rd rs1 rs2 : Reg) (s : State) : Result :=
  s.finishS rd (single.minmax false (s.readS rs1).toNat (s.readS rs2).toNat)

/-- `fmin.d` (R241). -/
def execFminD (rd rs1 rs2 : Reg) (s : State) : Result :=
  s.finishD rd (double.minmax false (s.readF rs1).toNat (s.readF rs2).toNat)

/-- `fmax.s` (R242). -/
def execFmaxS (rd rs1 rs2 : Reg) (s : State) : Result :=
  s.finishS rd (single.minmax true (s.readS rs1).toNat (s.readS rs2).toNat)

/-- `fmax.d` (R243). -/
def execFmaxD (rd rs1 rs2 : Reg) (s : State) : Result :=
  s.finishD rd (double.minmax true (s.readF rs1).toNat (s.readF rs2).toNat)

/-- `feq.s` (R244). -/
def execFeqS (rd rs1 rs2 : Reg) (s : State) : Result :=
  s.finishCmp rd (single.feq (s.readS rs1).toNat (s.readS rs2).toNat)

/-- `feq.d` (R245). -/
def execFeqD (rd rs1 rs2 : Reg) (s : State) : Result :=
  s.finishCmp rd (double.feq (s.readF rs1).toNat (s.readF rs2).toNat)

/-- `flt.s` (R246). -/
def execFltS (rd rs1 rs2 : Reg) (s : State) : Result :=
  s.finishCmp rd (single.flt (s.readS rs1).toNat (s.readS rs2).toNat)

/-- `flt.d` (R247). -/
def execFltD (rd rs1 rs2 : Reg) (s : State) : Result :=
  s.finishCmp rd (double.flt (s.readF rs1).toNat (s.readF rs2).toNat)

/-- `fle.s` (R248). -/
def execFleS (rd rs1 rs2 : Reg) (s : State) : Result :=
  s.finishCmp rd (single.fle (s.readS rs1).toNat (s.readS rs2).toNat)

/-- `fle.d` (R249). -/
def execFleD (rd rs1 rs2 : Reg) (s : State) : Result :=
  s.finishCmp rd (double.fle (s.readF rs1).toNat (s.readF rs2).toNat)

/-- `fclass.s` (R250): no flag. -/
def execFclassS (rd rs1 : Reg) (s : State) : Result :=
  s.writeBack rd (single.classMask (s.readS rs1).toNat)

/-- `fclass.d` (R251): no flag. -/
def execFclassD (rd rs1 : Reg) (s : State) : Result :=
  s.writeBack rd (double.classMask (s.readF rs1).toNat)

/-- `fmv.s.x` (R252). -/
def execFmvSX (rd rs1 : Reg) (s : State) : Result :=
  s.putS rd (s.readXW rs1)

/-- `fmv.d.x` (R253). -/
def execFmvDX (rd rs1 : Reg) (s : State) : Result :=
  s.putD rd (s.readX rs1)

/-- `fmv.x.s` (R254): no NaN-boxing check. -/
def execFmvXS (rd rs1 : Reg) (s : State) : Result :=
  s.writeBack rd (sextWord ((s.readF rs1).setWidth 32))

/-- `fmv.x.d` (R255). -/
def execFmvXD (rd rs1 : Reg) (s : State) : Result :=
  s.writeBack rd (s.readF rs1)

end Sys2Proof.Machine
end

