-- ==== Sys2Proof/Machine/FpArith.lean ====
section
/-! DEFINITION. The meanings of the floating-point arithmetic and of the conversions between the precisions (46_fp_arith_convert.md
R260 to R285).

Each meaning takes the fields of its constructor, in order, and the state. -/

namespace Sys2Proof.Machine

/-- `rm <- rmode(inst)` before anything is read or written; a reserved mode is an illegal instruction (R227, R260). `i` is
the instruction itself, for the word reported (log entry 15). -/
def State.withRm (s : State) (i : Instr) (rm : BitVec 3) (k : RMode → Result) : Result :=
  match s.rmode rm with
  | none => s.takeTrap (.illegalInstruction (encode i))
  | some m => k m

/-- `fadd.s` (R266). -/
def execFaddS (rd rs1 rs2 : Reg) (rm : BitVec 3) (s : State) : Result :=
  s.withRm (.faddS rd rs1 rs2 rm) rm fun m => s.finishS rd (single.add m (s.readS rs1).toNat (s.readS rs2).toNat)

/-- `fadd.d` (R267). -/
def execFaddD (rd rs1 rs2 : Reg) (rm : BitVec 3) (s : State) : Result :=
  s.withRm (.faddD rd rs1 rs2 rm) rm fun m => s.finishD rd (double.add m (s.readF rs1).toNat (s.readF rs2).toNat)

/-- `fsub.s` (R268). -/
def execFsubS (rd rs1 rs2 : Reg) (rm : BitVec 3) (s : State) : Result :=
  s.withRm (.fsubS rd rs1 rs2 rm) rm fun m => s.finishS rd (single.sub m (s.readS rs1).toNat (s.readS rs2).toNat)

/-- `fsub.d` (R269). -/
def execFsubD (rd rs1 rs2 : Reg) (rm : BitVec 3) (s : State) : Result :=
  s.withRm (.fsubD rd rs1 rs2 rm) rm fun m => s.finishD rd (double.sub m (s.readF rs1).toNat (s.readF rs2).toNat)

/-- `fmul.s` (R270). -/
def execFmulS (rd rs1 rs2 : Reg) (rm : BitVec 3) (s : State) : Result :=
  s.withRm (.fmulS rd rs1 rs2 rm) rm fun m => s.finishS rd (single.mul m (s.readS rs1).toNat (s.readS rs2).toNat)

/-- `fmul.d` (R271). -/
def execFmulD (rd rs1 rs2 : Reg) (rm : BitVec 3) (s : State) : Result :=
  s.withRm (.fmulD rd rs1 rs2 rm) rm fun m => s.finishD rd (double.mul m (s.readF rs1).toNat (s.readF rs2).toNat)

/-- `fdiv.s` (R272). -/
def execFdivS (rd rs1 rs2 : Reg) (rm : BitVec 3) (s : State) : Result :=
  s.withRm (.fdivS rd rs1 rs2 rm) rm fun m => s.finishS rd (single.div m (s.readS rs1).toNat (s.readS rs2).toNat)

/-- `fdiv.d` (R273). -/
def execFdivD (rd rs1 rs2 : Reg) (rm : BitVec 3) (s : State) : Result :=
  s.withRm (.fdivD rd rs1 rs2 rm) rm fun m => s.finishD rd (double.div m (s.readF rs1).toNat (s.readF rs2).toNat)

/-- `fsqrt.s` (R274). -/
def execFsqrtS (rd rs1 : Reg) (rm : BitVec 3) (s : State) : Result :=
  s.withRm (.fsqrtS rd rs1 rm) rm fun m => s.finishS rd (single.sqrt m (s.readS rs1).toNat)

/-- `fsqrt.d` (R275). -/
def execFsqrtD (rd rs1 : Reg) (rm : BitVec 3) (s : State) : Result :=
  s.withRm (.fsqrtD rd rs1 rm) rm fun m => s.finishD rd (double.sqrt m (s.readF rs1).toNat)

/-- `fmadd.s` (R276): negp = 0, negc = 0 (R262). -/
def execFmaddS (rd rs1 rs2 rs3 : Reg) (rm : BitVec 3) (s : State) : Result :=
  s.withRm (.fmaddS rd rs1 rs2 rs3 rm) rm fun m => 
    s.finishS rd (single.fused m false false (s.readS rs1).toNat (s.readS rs2).toNat (s.readS rs3).toNat)

/-- `fmadd.d` (R277): negp = 0, negc = 0 (R262). -/
def execFmaddD (rd rs1 rs2 rs3 : Reg) (rm : BitVec 3) (s : State) : Result :=
  s.withRm (.fmaddD rd rs1 rs2 rs3 rm) rm fun m => 
    s.finishD rd (double.fused m false false (s.readF rs1).toNat (s.readF rs2).toNat (s.readF rs3).toNat)

/-- `fmsub.s` (R278): negp = 0, negc = 1 (R262). -/
def execFmsubS (rd rs1 rs2 rs3 : Reg) (rm : BitVec 3) (s : State) : Result :=
  s.withRm (.fmsubS rd rs1 rs2 rs3 rm) rm fun m => 
    s.finishS rd (single.fused m false true (s.readS rs1).toNat (s.readS rs2).toNat (s.readS rs3).toNat)

/-- `fmsub.d` (R279): negp = 0, negc = 1 (R262). -/
def execFmsubD (rd rs1 rs2 rs3 : Reg) (rm : BitVec 3) (s : State) : Result :=
  s.withRm (.fmsubD rd rs1 rs2 rs3 rm) rm fun m => 
    s.finishD rd (double.fused m false true (s.readF rs1).toNat (s.readF rs2).toNat (s.readF rs3).toNat)

/-- `fnmadd.s` (R280): negp = 1, negc = 1 (R262). -/
def execFnmaddS (rd rs1 rs2 rs3 : Reg) (rm : BitVec 3) (s : State) : Result :=
  s.withRm (.fnmaddS rd rs1 rs2 rs3 rm) rm fun m => 
    s.finishS rd (single.fused m true true (s.readS rs1).toNat (s.readS rs2).toNat (s.readS rs3).toNat)

/-- `fnmadd.d` (R281): negp = 1, negc = 1 (R262). -/
def execFnmaddD (rd rs1 rs2 rs3 : Reg) (rm : BitVec 3) (s : State) : Result :=
  s.withRm (.fnmaddD rd rs1 rs2 rs3 rm) rm fun m => 
    s.finishD rd (double.fused m true true (s.readF rs1).toNat (s.readF rs2).toNat (s.readF rs3).toNat)

/-- `fnmsub.s` (R282): negp = 1, negc = 0 (R262). -/
def execFnmsubS (rd rs1 rs2 rs3 : Reg) (rm : BitVec 3) (s : State) : Result :=
  s.withRm (.fnmsubS rd rs1 rs2 rs3 rm) rm fun m => 
    s.finishS rd (single.fused m true false (s.readS rs1).toNat (s.readS rs2).toNat (s.readS rs3).toNat)

/-- `fnmsub.d` (R283): negp = 1, negc = 0 (R262). -/
def execFnmsubD (rd rs1 rs2 rs3 : Reg) (rm : BitVec 3) (s : State) : Result :=
  s.withRm (.fnmsubD rd rs1 rs2 rs3 rm) rm fun m => 
    s.finishD rd (double.fused m true false (s.readF rs1).toNat (s.readF rs2).toNat (s.readF rs3).toNat)

/-- `fcvt.s.d` (R284). -/
def execFcvtSD (rd rs1 : Reg) (rm : BitVec 3) (s : State) : Result :=
  s.withRm (.fcvtSD rd rs1 rm) rm fun m => s.finishS rd (single.convert double m (s.readF rs1).toNat)

/-- `fcvt.d.s` (R285): always exact, so the only flag is NV; the mode is checked nonetheless (R227). -/
def execFcvtDS (rd rs1 : Reg) (rm : BitVec 3) (s : State) : Result :=
  s.withRm (.fcvtDS rd rs1 rm) rm fun m => s.finishD rd (double.convert single m (s.readS rs1).toNat)

end Sys2Proof.Machine
end

