-- ==== Sys2Proof/Machine/FpInt.lean ====
section
/-! DEFINITION. The meanings of the conversions between floating point and integers (49_fp_int_convert.md R286 to R303).

Each meaning takes the fields of its constructor, in order, and the state. -/

namespace Sys2Proof.Machine

/-- A 32-bit integer result, sign-extended from bit 31, and its flags (R302). -/
def State.finishW (s : State) (rd : Reg) (o : Int × Flags) : Result :=
  ((s.writeX rd (sextWord (BitVec.ofInt 32 o.1))).accrue o.2).completes

/-- A 64-bit integer result and its flags (R302). -/
def State.finishL (s : State) (rd : Reg) (o : Int × Flags) : Result :=
  ((s.writeX rd (BitVec.ofInt 64 o.1)).accrue o.2).completes

/-- `fcvt.s.w` (R286). -/
def execFcvtSW (rd rs1 : Reg) (rm : BitVec 3) (s : State) : Result :=
  s.withRm (.fcvtSW rd rs1 rm) rm fun m => s.finishS rd (single.ofInt m (s.readXW rs1).toInt)

/-- `fcvt.d.w` (R287): always exact, no flag; the mode is checked nonetheless (R227). -/
def execFcvtDW (rd rs1 : Reg) (rm : BitVec 3) (s : State) : Result :=
  s.withRm (.fcvtDW rd rs1 rm) rm fun m => s.putD rd (BitVec.ofNat 64 (double.ofInt m (s.readXW rs1).toInt).bits)

/-- `fcvt.s.l` (R288). -/
def execFcvtSL (rd rs1 : Reg) (rm : BitVec 3) (s : State) : Result :=
  s.withRm (.fcvtSL rd rs1 rm) rm fun m => s.finishS rd (single.ofInt m (s.readX rs1).toInt)

/-- `fcvt.d.l` (R289). -/
def execFcvtDL (rd rs1 : Reg) (rm : BitVec 3) (s : State) : Result :=
  s.withRm (.fcvtDL rd rs1 rm) rm fun m => s.finishD rd (double.ofInt m (s.readX rs1).toInt)

/-- `fcvt.s.wu` (R290). -/
def execFcvtSWu (rd rs1 : Reg) (rm : BitVec 3) (s : State) : Result :=
  s.withRm (.fcvtSWu rd rs1 rm) rm fun m => s.finishS rd (single.ofInt m (s.readXW rs1).toNat)

/-- `fcvt.d.wu` (R291): always exact, no flag; the mode is checked nonetheless (R227). -/
def execFcvtDWu (rd rs1 : Reg) (rm : BitVec 3) (s : State) : Result :=
  s.withRm (.fcvtDWu rd rs1 rm) rm fun m => s.putD rd (BitVec.ofNat 64 (double.ofInt m (s.readXW rs1).toNat).bits)

/-- `fcvt.s.lu` (R292). -/
def execFcvtSLu (rd rs1 : Reg) (rm : BitVec 3) (s : State) : Result :=
  s.withRm (.fcvtSLu rd rs1 rm) rm fun m => s.finishS rd (single.ofInt m (s.readX rs1).toNat)

/-- `fcvt.d.lu` (R293). -/
def execFcvtDLu (rd rs1 : Reg) (rm : BitVec 3) (s : State) : Result :=
  s.withRm (.fcvtDLu rd rs1 rm) rm fun m => s.finishD rd (double.ofInt m (s.readX rs1).toNat)

/-- `fcvt.w.s` (R294). -/
def execFcvtWS (rd rs1 : Reg) (rm : BitVec 3) (s : State) : Result :=
  s.withRm (.fcvtWS rd rs1 rm) rm fun m => s.finishW rd (single.toInt m 32 true (s.readS rs1).toNat)

/-- `fcvt.w.d` (R295). -/
def execFcvtWD (rd rs1 : Reg) (rm : BitVec 3) (s : State) : Result :=
  s.withRm (.fcvtWD rd rs1 rm) rm fun m => s.finishW rd (double.toInt m 32 true (s.readF rs1).toNat)

/-- `fcvt.l.s` (R296). -/
def execFcvtLS (rd rs1 : Reg) (rm : BitVec 3) (s : State) : Result :=
  s.withRm (.fcvtLS rd rs1 rm) rm fun m => s.finishL rd (single.toInt m 64 true (s.readS rs1).toNat)

/-- `fcvt.l.d` (R297). -/
def execFcvtLD (rd rs1 : Reg) (rm : BitVec 3) (s : State) : Result :=
  s.withRm (.fcvtLD rd rs1 rm) rm fun m => s.finishL rd (double.toInt m 64 true (s.readF rs1).toNat)

/-- `fcvt.wu.s` (R298). -/
def execFcvtWuS (rd rs1 : Reg) (rm : BitVec 3) (s : State) : Result :=
  s.withRm (.fcvtWuS rd rs1 rm) rm fun m => s.finishW rd (single.toInt m 32 false (s.readS rs1).toNat)

/-- `fcvt.wu.d` (R299). -/
def execFcvtWuD (rd rs1 : Reg) (rm : BitVec 3) (s : State) : Result :=
  s.withRm (.fcvtWuD rd rs1 rm) rm fun m => s.finishW rd (double.toInt m 32 false (s.readF rs1).toNat)

/-- `fcvt.lu.s` (R300). -/
def execFcvtLuS (rd rs1 : Reg) (rm : BitVec 3) (s : State) : Result :=
  s.withRm (.fcvtLuS rd rs1 rm) rm fun m => s.finishL rd (single.toInt m 64 false (s.readS rs1).toNat)

/-- `fcvt.lu.d` (R301). -/
def execFcvtLuD (rd rs1 : Reg) (rm : BitVec 3) (s : State) : Result :=
  s.withRm (.fcvtLuD rd rs1 rm) rm fun m => s.finishL rd (double.toInt m 64 false (s.readF rs1).toNat)

end Sys2Proof.Machine
end

