-- ==== Sys2Proof/Machine/MulDiv.lean ====
section
/-! DEFINITION. The meanings of RV64M (44_multiply_divide.md R205 to R219).

Each meaning takes the fields of its constructor, in order, and the state. -/

namespace Sys2Proof.Machine

/-- `p[127:64]`. -/
def highHalf (p : BitVec 128) : Dword := p.extractLsb' 64 64

/-- Signed division, rounded towards zero, with the two corners of R219. -/
def divSigned {w : Nat} (a b : BitVec w) : BitVec w :=
  if b = 0#w then BitVec.allOnes w
  else if a = BitVec.intMin w ∧ b = BitVec.allOnes w then BitVec.intMin w
  else BitVec.ofInt w (a.toInt.tdiv b.toInt)

/-- Unsigned division, with the corner of R219. -/
def divUnsigned {w : Nat} (a b : BitVec w) : BitVec w :=
  if b = 0#w then BitVec.allOnes w else BitVec.ofNat w (a.toNat / b.toNat)

/-- Signed remainder, the sign of the dividend, with the two corners of R219. -/
def remSigned {w : Nat} (a b : BitVec w) : BitVec w :=
  if b = 0#w then a
  else if a = BitVec.intMin w ∧ b = BitVec.allOnes w then 0#w
  else BitVec.ofInt w (a.toInt - b.toInt * a.toInt.tdiv b.toInt)

/-- Unsigned remainder, with the corner of R219. -/
def remUnsigned {w : Nat} (a b : BitVec w) : BitVec w :=
  if b = 0#w then a else BitVec.ofNat w (a.toNat % b.toNat)

/-- `mul` (R206). -/
def execMul (rd rs1 rs2 : Reg) (s : State) : Result :=
  s.writeBack rd (s.readX rs1 * s.readX rs2)

/-- `mulw` (R207). -/
def execMulw (rd rs1 rs2 : Reg) (s : State) : Result :=
  s.writeBack rd (sextWord (s.readXW rs1 * s.readXW rs2))

/-- `mulh` (R208). -/
def execMulh (rd rs1 rs2 : Reg) (s : State) : Result :=
  s.writeBack rd (highHalf ((s.readX rs1).signExtend 128 * (s.readX rs2).signExtend 128))

/-- `mulhu` (R209). -/
def execMulhu (rd rs1 rs2 : Reg) (s : State) : Result :=
  s.writeBack rd (highHalf ((s.readX rs1).setWidth 128 * (s.readX rs2).setWidth 128))

/-- `mulhsu` (R210). -/
def execMulhsu (rd rs1 rs2 : Reg) (s : State) : Result :=
  s.writeBack rd (highHalf ((s.readX rs1).signExtend 128 * (s.readX rs2).setWidth 128))

/-- `div` (R211). -/
def execDiv (rd rs1 rs2 : Reg) (s : State) : Result :=
  s.writeBack rd (divSigned (s.readX rs1) (s.readX rs2))

/-- `divw` (R212). -/
def execDivw (rd rs1 rs2 : Reg) (s : State) : Result :=
  s.writeBack rd (sextWord (divSigned (s.readXW rs1) (s.readXW rs2)))

/-- `divu` (R213). -/
def execDivu (rd rs1 rs2 : Reg) (s : State) : Result :=
  s.writeBack rd (divUnsigned (s.readX rs1) (s.readX rs2))

/-- `divuw` (R214). -/
def execDivuw (rd rs1 rs2 : Reg) (s : State) : Result :=
  s.writeBack rd (sextWord (divUnsigned (s.readXW rs1) (s.readXW rs2)))

/-- `rem` (R215). -/
def execRem (rd rs1 rs2 : Reg) (s : State) : Result :=
  s.writeBack rd (remSigned (s.readX rs1) (s.readX rs2))

/-- `remw` (R216). -/
def execRemw (rd rs1 rs2 : Reg) (s : State) : Result :=
  s.writeBack rd (sextWord (remSigned (s.readXW rs1) (s.readXW rs2)))

/-- `remu` (R217). -/
def execRemu (rd rs1 rs2 : Reg) (s : State) : Result :=
  s.writeBack rd (remUnsigned (s.readX rs1) (s.readX rs2))

/-- `remuw` (R218). -/
def execRemuw (rd rs1 rs2 : Reg) (s : State) : Result :=
  s.writeBack rd (sextWord (remUnsigned (s.readXW rs1) (s.readXW rs2)))

end Sys2Proof.Machine
end

