-- ==== Sys2Proof/Machine/System.lean ====
section
/-! DEFINITION. The meanings of the CSR accesses, the environment calls and the fences (43_system.md R190 to R200).

Each meaning takes the fields of its constructor, in order, and the state. -/

namespace Sys2Proof.Machine

/-- A CSR access (R190): the address is checked, then writability; then the old value is read, the new one written, and
the old one goes to `x[rd]`. `i` is the instruction itself, for the word that an illegal access reports (log entry 15). -/
def State.csrAccess (s : State) (i : Instr) (a : BitVec 12) (rd : Reg) (reads writes : Bool) (new : Dword → Dword) :
    Result :=
  match csrAt s.params.hasCounters a with
  | none => s.takeTrap (.illegalInstruction (encode i))
  | some c =>
    if writes && c.readOnly then s.takeTrap (.illegalInstruction (encode i))
    else
      let r := if reads then s.readCsr c else (0, s)
      let s₁ := if writes then r.2.writeCsr c (new r.1) else r.2
      (if reads then s₁.writeX rd r.1 else s₁).completes

/-- `csrrw` (R191): always writes; reads unless `rd` is `x0`. -/
def execCsrrw (rd rs1 : Reg) (csr : BitVec 12) (s : State) : Result :=
  s.csrAccess (.csrrw rd rs1 csr) csr rd (decide (rd ≠ 0#5)) true (fun _ => s.readX rs1)

/-- `csrrs` (R192): always reads; writes unless the `rs1` field is 0. -/
def execCsrrs (rd rs1 : Reg) (csr : BitVec 12) (s : State) : Result :=
  s.csrAccess (.csrrs rd rs1 csr) csr rd true (decide (rs1 ≠ 0#5)) (fun t => t ||| s.readX rs1)

/-- `csrrc` (R193): always reads; writes unless the `rs1` field is 0. -/
def execCsrrc (rd rs1 : Reg) (csr : BitVec 12) (s : State) : Result :=
  s.csrAccess (.csrrc rd rs1 csr) csr rd true (decide (rs1 ≠ 0#5)) (fun t => t &&& ~~~s.readX rs1)

/-- `csrrwi` (R194): always writes; reads unless `rd` is `x0`. -/
def execCsrrwi (rd : Reg) (uimm : BitVec 5) (csr : BitVec 12) (s : State) : Result :=
  s.csrAccess (.csrrwi rd uimm csr) csr rd (decide (rd ≠ 0#5)) true (fun _ => uimm.setWidth 64)

/-- `csrrsi` (R195): always reads; writes unless the `uimm` field is 0. -/
def execCsrrsi (rd : Reg) (uimm : BitVec 5) (csr : BitVec 12) (s : State) : Result :=
  s.csrAccess (.csrrsi rd uimm csr) csr rd true (decide (uimm ≠ 0#5)) (fun t => t ||| uimm.setWidth 64)

/-- `csrrci` (R196): always reads; writes unless the `uimm` field is 0. -/
def execCsrrci (rd : Reg) (uimm : BitVec 5) (csr : BitVec 12) (s : State) : Result :=
  s.csrAccess (.csrrci rd uimm csr) csr rd true (decide (uimm ≠ 0#5)) (fun t => t &&& ~~~uimm.setWidth 64)

/-- `ecall` (R197): its whole effect is the exception. -/
def execEcall (s : State) : Result :=
  s.takeTrap .environmentCall

/-- `ebreak` (R198): its whole effect is the exception. -/
def execEbreak (s : State) : Result :=
  s.takeTrap (.breakpoint s.pc)

/-- `fence` (R199): no effect; every field is ignored (R63, R102). -/
def execFence (_fm _pred _succ : BitVec 4) (_rs1 _rd : Reg) (s : State) : Result :=
  s.completes

/-- `fence.i` (R200): discards the stale fetch view; every field is ignored (R64, R102). -/
def execFenceI (_imm : BitVec 12) (_rs1 _rd : Reg) (s : State) : Result :=
  s.syncFetch.completes

end Sys2Proof.Machine
end

