-- ==== Sys2Proof/Machine/Hart.lean ====
section
/-! DEFINITION. The hart: fetching a word through the fetch view (20_memory.md R53, R64), one step (60_exceptions.md R425),
and what a trap record leads to (R400). -/

namespace Sys2Proof.Machine

-- ==== Fetch ====

/-- The values a fetch of the word at `w` may return: those the word held since the last `fence.i`, and last its current
value (R64). A value that is none is a word of which some byte holds nothing (R43). -/
def State.fetchChoices (s : State) (w : Nat) : List (Option Word) :=
  (s.stale.filter fun e => decide (e.word = w) && decide (e.value ≠ s.mem.wordAt w)).map StaleWord.value
    ++ [s.mem.wordAt w]

/-- `MemFetch(pc)` (R53): the word, and the state after the draw that chooses it. There is no draw where there is nothing to
choose. -/
def State.fetch (s : State) : Option Word × State :=
  let c := s.fetchChoices s.pc.toNat
  if c.length = 1 then (s.mem.wordAt s.pc.toNat, s)
  else (c.getD (Config.freeChoice s.draws % c.length) none, s.drawn)

-- ==== One step ====

/-- Steps 3 to 6 of R425 on a fetched word: the instruction it decodes to is executed, and a word that is none is an illegal
instruction (R403). -/
def runWord (w : Word) (s : State) : Result :=
  match decode w with
  | .ok i => exec i s
  | .error _ => s.takeTrap (.illegalInstruction w)

/-- One step of a hart that runs (R425). -/
def hartStep (s : State) : Result :=
  if s.pc.toNat % 4 ≠ 0 then .fault .misalignedPc
  else if permitsAll s.params .execute s.pc.toNat 4 then
    match s.fetch with
    | (some w, t) => runWord w t
    | (none, _) => .fault (.noValue s.pc.toNat)
  else s.takeTrap (.instructionAccessFault s.pc)

/-- One step under an environment (R400): a hart that runs steps; a trap record goes to the environment. -/
def stepUnder (env : EnvTrap) (s : State) : Result :=
  match s.trap with
  | none => hartStep s
  | some e => resumeUnder env e s

-- ==== Placing a word where the next step fetches it ====

/-- The parameters with execute permission for the four bytes at `a`, where it was missing. -/
def grantExecute (P : Params) (a : Nat) : Params :=
  if permitsAll P .execute a 4 then P else { P with memMap := ⟨a, 4, false, false, true⟩ :: P.memMap }

/-- The state whose next step fetches the word `w`: its bytes stand at `pc` (R52), the fetch view holds no older value of
them, they may be executed, and the hart runs (log entry 19). -/
def State.placeWord (s : State) (w : Nat) : State :=
  { s with
    mem := s.mem.writeLE s.pc.toNat 4 w
    stale := s.stale.filter fun e => decide (e.word ≠ s.pc.toNat)
    trap := none
    params := grantExecute s.params s.pc.toNat }

end Sys2Proof.Machine
end

