-- ==== Sys2Proof/Machine/Step.lean ====
section
/-! DEFINITION. The step function of the machine, and the state whose next step runs a given word. -/

namespace Sys2Proof.Machine

/-- One step under the default EnvTrap, which ends the run at a trap (60_exceptions.md R400, R425). -/
def step (s : State) : Host.Outcome State Fault Refusal := stepUnder haltOnTrap s

/-- The state `s` with the instruction whose bits are `w` where the next step fetches (log entry 19). -/
def State.withFetchWord (s : State) (nbits w : Nat) : State := s.placeWord (w % 2 ^ nbits)

end Sys2Proof.Machine
end

