-- ==== Sys2Proof/Safety.lean ====
section
/-! DEFINITION. The terms in which claims about the machine are made: what an instruction may change, how it ends, when
memory is ready for an access, the invariant of a run, and the spec's rounding on exact numbers.

Nothing here is part of the machine: no meaning refers to this file. -/

namespace Sys2Proof.Machine

-- ==== What changes ====

/-- What an instruction may change besides `pc`. -/
structure Changes where
  /-- The integer register written. -/
  x : Option Reg := none
  /-- The floating-point register written. -/
  f : Option Reg := none
  /-- Whether `fcsr` may change. -/
  fcsr : Bool := false
  /-- Whether the reservation may change. -/
  resv : Bool := false
  /-- The address and the size of the bytes stored to. -/
  stored : Option (Nat × Nat) := none
  /-- Whether the older values a fetch may see may change. -/
  fetchView : Bool := false
  /-- Whether the model's count of draws may change. -/
  draws : Bool := false

/-- From `s` to `t` nothing changes but `pc` and what `c` names: every other register, every byte of memory outside the
stored bytes, `fcsr`, the reservation, the fetch view, the trap record and the parameters read as before. -/
structure OnlyChanges (c : Changes) (s t : State) : Prop where
  /-- The other integer registers. -/
  xKept : ∀ r : Reg, c.x ≠ some r → t.readX r = s.readX r
  /-- The other floating-point registers. -/
  fKept : ∀ r : Reg, c.f ≠ some r → t.readF r = s.readF r
  /-- `fcsr`. -/
  fcsrKept : c.fcsr = false → t.fcsr = s.fcsr
  /-- The reservation. -/
  resvKept : c.resv = false → t.resv = s.resv
  /-- Every byte of memory outside the stored bytes. -/
  memKept : ∀ a : Nat, (∀ b n : Nat, c.stored = some (b, n) → a < b ∨ b + n ≤ a) → t.mem.read a = s.mem.read a
  /-- The fetch view. -/
  fetchViewKept : c.fetchView = false → t.stale = s.stale
  /-- The trap record. -/
  trapKept : t.trap = s.trap
  /-- The parameters. -/
  paramsKept : t.params = s.params
  /-- The count of draws. -/
  drawsKept : c.draws = false → t.draws = s.draws

-- ==== How an instruction ends ====

/-- The instruction completes: a next state with `pc` four bytes further (R25), the changes that `c` names and no other,
and `post`. -/
def Completes (i : Instr) (s : State) (c : Changes) (post : State → Prop) : Prop :=
  ∃ t, exec i s = .next t ∧ t.pc.toNat = (s.pc.toNat + 4) % 2 ^ 64 ∧ OnlyChanges c s t ∧ post t

/-- What `x[rd]` reads as after the value `v` was written to it: `v`, or 0 where `rd` is `x0` (R21). -/
def written (rd : Reg) (v : Dword) : Dword := if rd = 0#5 then 0 else v

/-- The instruction completes, its only result the value `v` of `x[rd]`. -/
def CompletesX (i : Instr) (s : State) (rd : Reg) (v : Dword) : Prop :=
  Completes i s { x := some rd } fun t => t.readX rd = written rd v

/-- The instruction completes, its only result the value `v` of `f[rd]`. -/
def CompletesF (i : Instr) (s : State) (rd : Reg) (v : Dword) : Prop :=
  Completes i s { f := some rd } fun t => t.readF rd = v

/-- The flags `F` have been accrued from `s` to `t`: ORed into `fcsr[4:0]`, `fcsr[7:5]` untouched (R228). -/
def Accrued (F : Flags) (s t : State) : Prop := t.fflags = s.fflags ||| F ∧ t.frm = s.frm

/-- The instruction completes, its results the value `v` of `f[rd]` and the flags `F`. -/
def CompletesFFlags (i : Instr) (s : State) (rd : Reg) (v : Dword) (F : Flags) : Prop :=
  Completes i s { f := some rd, fcsr := true } fun t => t.readF rd = v ∧ Accrued F s t

/-- The instruction completes, its results the value `v` of `x[rd]` and the flags `F`. -/
def CompletesXFlags (i : Instr) (s : State) (rd : Reg) (v : Dword) (F : Flags) : Prop :=
  Completes i s { x := some rd, fcsr := true } fun t => t.readX rd = written rd v ∧ Accrued F s t

/-- The instruction raises `e` (R400, R401): the record is made, the reservation is cleared, and everything else, `pc`
included, is as it was. -/
def Traps (i : Instr) (s : State) (e : Exception) : Prop :=
  exec i s = .next { s with resv := none, trap := some e }

-- ==== Memory ready for an access ====

/-- The number that bytes in increasing address order make (R52). -/
def leValue : List Byte → Nat
  | [] => 0
  | b :: bs => b.toNat + 256 * leValue bs

/-- An aligned access to `n` bytes that MemMap lets read, and that hold the bytes `bs`. -/
structure LoadReady (s : State) (a : Dword) (n : Nat) (bs : List Byte) : Prop where
  /-- The address is a multiple of the size. -/
  aligned : a.toNat % n = 0
  /-- Every byte may be read. -/
  readable : ∀ k < n, permits s.params .read (a.toNat + k) = true
  /-- There are `n` bytes. -/
  length : bs.length = n
  /-- They hold `bs`. -/
  holds : ∀ k (h : k < bs.length), s.mem.read (a.toNat + k) = some bs[k]

/-- An aligned access to `n` bytes that MemMap lets write. -/
structure StoreReady (s : State) (a : Dword) (n : Nat) : Prop where
  /-- The address is a multiple of the size. -/
  aligned : a.toNat % n = 0
  /-- Every byte may be written. -/
  writable : ∀ k < n, permits s.params .write (a.toNat + k) = true

/-- The `n` bytes from `a` on hold the low `8n` bits of `v`, the least significant byte at `a` (R52). -/
def Holds (t : State) (a : Dword) (n : Nat) (v : Dword) : Prop :=
  ∀ k < n, t.mem.read (a.toNat + k) = some (v.extractLsb' (8 * k) 8)

/-- The instruction completes, its only result the low `8n` bits of `v` in the `n` bytes at `a`; the fetch view may keep
what they held (R64). -/
def CompletesStore (i : Instr) (s : State) (a : Dword) (n : Nat) (v : Dword) : Prop :=
  Completes i s { stored := some (a.toNat, n), fetchView := true } fun t => Holds t a n v

/-- The instruction completes, its results the value `old` of `x[rd]` and the low `8n` bits of `new` in the `n` bytes at
`a`. -/
def CompletesAmo (i : Instr) (s : State) (rd : Reg) (a : Dword) (n : Nat) (old new : Dword) : Prop :=
  Completes i s { x := some rd, stored := some (a.toNat, n), fetchView := true }
    fun t => t.readX rd = written rd old ∧ Holds t a n new

/-- The instruction raises as an access of `n` bytes at `a` must (R54, R411): misaligned first, whatever MemMap says; then
the access fault of `a` where some byte lacks a permission in `ps`. -/
def TrapsOnBadAccess (i : Instr) (s : State) (a : Dword) (n : Nat) (ps : List Permission) (misaligned forbidden : Exception) :
    Prop :=
  (a.toNat % n ≠ 0 → Traps i s misaligned) ∧
    (∀ k < n, ∀ p ∈ ps, a.toNat % n = 0 → permits s.params p (a.toNat + k) = false → Traps i s forbidden)

-- ==== CSRs ====

/-- The value of a CSR of R33 as `csrr*` sees it: its field of `fcsr`, zero-extended (R34, R35). -/
def csrValue (a : BitVec 12) (fcsr : Nat) : Nat :=
  if a = 0x001#12 then fcsr % 32 else if a = 0x002#12 then fcsr / 32 else fcsr

/-- `fcsr` after `v` is written to a CSR of R33: only its field changes (R34, R35). -/
def csrUpdate (a : BitVec 12) (fcsr v : Nat) : Nat :=
  if a = 0x001#12 then fcsr / 32 * 32 + v % 32 else if a = 0x002#12 then v % 8 * 32 + fcsr % 32 else v % 256

/-- A `csrr*` completes: `x[rd]` receives the old value where the instruction reads, and the CSR the new one where it
writes. -/
def CsrCompletes (i : Instr) (s : State) (a : BitVec 12) (rd : Reg) (writes : Bool) (new : Dword) : Prop :=
  Completes i s { x := some rd, fcsr := true } fun t =>
    t.readX rd = written rd (BitVec.ofNat 64 (csrValue a s.fcsr.toNat)) ∧
      t.fcsr.toNat = if writes then csrUpdate a s.fcsr.toNat new.toNat else s.fcsr.toNat

-- ==== Classes of instructions ====

/-- The codes of the exceptions an instruction may raise once decoded, by the column "raised by" of R402. -/
def mayRaise : Instr → List Nat
  | .beq .. | .bne .. | .blt .. | .bge .. | .bltu .. | .bgeu .. | .jal .. | .jalr .. => [0]
  | .csrrw .. | .csrrs .. | .csrrc .. | .csrrwi .. | .csrrsi .. | .csrrci .. => [2]
  | .faddS .. | .faddD .. | .fsubS .. | .fsubD .. | .fmulS .. | .fmulD .. | .fdivS .. | .fdivD .. | .fsqrtS ..
  | .fsqrtD .. | .fmaddS .. | .fmaddD .. | .fmsubS .. | .fmsubD .. | .fnmaddS .. | .fnmaddD .. | .fnmsubS ..
  | .fnmsubD .. | .fcvtSD .. | .fcvtDS .. => [2]
  | .fcvtSW .. | .fcvtDW .. | .fcvtSL .. | .fcvtDL .. | .fcvtSWu .. | .fcvtDWu .. | .fcvtSLu .. | .fcvtDLu ..
  | .fcvtWS .. | .fcvtWD .. | .fcvtLS .. | .fcvtLD .. | .fcvtWuS .. | .fcvtWuD .. | .fcvtLuS .. | .fcvtLuD .. => [2]
  | .ebreak => [3]
  | .lb .. | .lbu .. => [5]
  | .lh .. | .lhu .. | .lw .. | .lwu .. | .ld .. | .flw .. | .fld .. | .lrW .. | .lrD .. => [4, 5]
  | .sb .. => [7]
  | .sh .. | .sw .. | .sd .. | .fsw .. | .fsd .. | .scW .. | .scD .. => [6, 7]
  | .amoaddW .. | .amoaddD .. | .amoandW .. | .amoandD .. | .amomaxW .. | .amomaxD .. | .amomaxuW .. | .amomaxuD ..
  | .amominW .. | .amominD .. | .amominuW .. | .amominuD .. | .amoorW .. | .amoorD .. | .amoswapW .. | .amoswapD ..
  | .amoxorW .. | .amoxorD .. => [6, 7]
  | .ecall => [8]
  | .add .. | .addw .. | .addi .. | .addiw .. | .and .. | .andi .. | .auipc .. | .lui .. | .or .. | .ori .. | .sll ..
  | .sllw .. | .slli .. | .slliw .. | .slt .. | .slti .. | .sltiu .. | .sltu .. | .sra .. | .sraw .. | .srai ..
  | .sraiw .. | .srl .. | .srlw .. | .srli .. | .srliw .. | .sub .. | .subw .. | .xor .. | .xori .. => []
  | .fence .. | .fenceI .. => []
  | .mul .. | .mulw .. | .mulh .. | .mulhu .. | .mulhsu .. | .div .. | .divw .. | .divu .. | .divuw .. | .rem ..
  | .remw .. | .remu .. | .remuw .. => []
  | .fsgnjS .. | .fsgnjD .. | .fsgnjnS .. | .fsgnjnD .. | .fsgnjxS .. | .fsgnjxD .. | .fminS .. | .fminD .. | .fmaxS ..
  | .fmaxD .. | .feqS .. | .feqD .. | .fltS .. | .fltD .. | .fleS .. | .fleD .. | .fclassS .. | .fclassD .. | .fmvSX ..
  | .fmvDX .. | .fmvXS .. | .fmvXD .. => []

/-- The six `csrr*` instructions. -/
def IsCsr : Instr → Prop
  | .csrrw .. | .csrrs .. | .csrrc .. | .csrrwi .. | .csrrsi .. | .csrrci .. => True
  | _ => False

/-- `lr.w` and `lr.d`, `sc.w` and `sc.d`. -/
def IsReservation : Instr → Prop
  | .lrW .. | .lrD .. | .scW .. | .scD .. => True
  | _ => False

-- ==== The invariant of a run ====

/-- What every step keeps: memory is in canonical form; the unused slot of `x0` holds 0; `pc` is a multiple of 4 (R26); a
reservation has the size 4 or 8 and an aligned address (R39); the fetch view holds words of the address space (R64); a state
with a trap record has no reservation (R400). -/
structure State.Inv (s : State) : Prop where
  /-- Memory is in canonical form. -/
  memWf : s.mem.wf
  /-- The slot of `x0`. -/
  slotZero : s.x[0] = 0
  /-- `pc` is aligned. -/
  pcAligned : s.pc.toNat % 4 = 0
  /-- The reservation. -/
  resvOk : ∀ r, s.resv = some r → (r.size = 4 ∨ r.size = 8) ∧ r.addr.toNat % r.size = 0
  /-- The fetch view. -/
  staleOk : ∀ e ∈ s.stale, e.word % 4 = 0 ∧ e.word < 2 ^ 64
  /-- A trap cleared the reservation. -/
  trapOk : s.trap ≠ none → s.resv = none

-- ==== Rounding on exact numbers (R265) ====

/-- The number a finite value stands for (R225); 0 for the values that are none. -/
def FpVal.toRat : FpVal → ℚ
  | .nan _ => 0
  | .inf _ => 0
  | .fin neg m e => (if neg then -1 else 1) * (m : ℚ) * 2 ^ e

/-- What a value that is no NaN stands for among the numbers with −∞ and +∞ (R225, R258). -/
def FpVal.toExt : FpVal → WithBot (WithTop ℚ)
  | .nan _ => 0
  | .inf neg => if neg then ⊥ else ((⊤ : WithTop ℚ) : WithBot (WithTop ℚ))
  | .fin neg m e => (((FpVal.fin neg m e).toRat : WithTop ℚ) : WithBot (WithTop ℚ))

/-- The value is finite. -/
def FpVal.IsFinite : FpVal → Prop
  | .nan _ => False
  | .inf _ => False
  | .fin _ _ _ => True

section

variable {K : Type} [Field K] [LinearOrder K] [FloorRing K]

/-- A magnitude rounded to an integer in the direction the mode gives for its sign (R265, R302). -/
def roundToInt (rm : RMode) (neg : Bool) (a : K) : ℤ :=
  match rm with
  | .rtz => ⌊a⌋
  | .rdn => if neg then ⌈a⌉ else ⌊a⌋
  | .rup => if neg then ⌊a⌋ else ⌈a⌉
  | .rmm => ⌊a + 1 / 2⌋
  | .rne => if a - ⌊a⌋ = 1 / 2 then (if ⌊a⌋ % 2 = 0 then ⌊a⌋ else ⌊a⌋ + 1) else ⌊a + 1 / 2⌋

/-- `q(e)` of R265: the magnitude rounded to a multiple of `2^(e - p + 1)`. -/
def Fmt.roundAt (F : Fmt) (rm : RMode) (neg : Bool) (a : K) (e : ℤ) : K :=
  roundToInt rm neg (a / 2 ^ (e - F.prec + 1)) * 2 ^ (e - F.prec + 1)

/-- `o` is `round(Fmt, rm, v, zs)` of R265 for the nonzero `v` of sign `neg` and magnitude `a`, which may be a rational number
or any real one. -/
def Fmt.IsRounding (F : Fmt) (rm : RMode) (neg : Bool) (a : K) (o : FpOut) : Prop :=
  ∀ e₀ : ℤ, (2 : K) ^ e₀ ≤ a → a < 2 ^ (e₀ + 1) →
    (2 ^ (F.bias + 1) ≤ F.roundAt rm neg a (max e₀ F.emin) →
      o.flags = flagOF ||| flagNX ∧
        o.bits = if rm = .rne ∨ rm = .rmm ∨ (rm = .rdn ∧ neg = true) ∨ (rm = .rup ∧ neg = false) then F.infinity neg
          else F.maxFinite neg) ∧
    (F.roundAt rm neg a (max e₀ F.emin) < 2 ^ (F.bias + 1) →
      (∃ m e, F.unpack o.bits = .fin neg m e ∧ (m : K) * 2 ^ e = F.roundAt rm neg a (max e₀ F.emin)) ∧
        o.bits < 2 ^ (1 + F.expBits + F.fracBits) ∧
        o.flags = flagIf (decide (F.roundAt rm neg a (max e₀ F.emin) ≠ a)) flagNX |||
          flagIf (decide (F.roundAt rm neg a (max e₀ F.emin) ≠ a) && decide (F.roundAt rm neg a e₀ < 2 ^ F.emin)) flagUF)

/-- `v` stands for the magnitude `a` where it is rounded to `p` bits: it is `a`, or `a` cut off after at least `p` bits of
it, something being left below (log entry 14). -/
def Exact.StandsFor (v : Exact) (p : Nat) (a : K) : Prop :=
  if v.sticky then 2 ^ p ≤ v.mag ∧ (v.mag : K) * 2 ^ v.exp < a ∧ a < ((v.mag : K) + 1) * 2 ^ v.exp
  else a = (v.mag : K) * 2 ^ v.exp

end

end Sys2Proof.Machine
end

