-- ==== Sys2Proof/Certificates/Slice0/Obligations.lean ====
section
/-! DEFINITION. The statements about the machine. Each docstring names the rules of spec/ it rests on. -/

open Sys2Proof Sys2Proof.Machine

-- ==== Encoding ====

/-- Words written out in the spec's examples decode to the instructions they stand for. -/
def Obligations.DecodesSpecExampleWords : Prop :=
  decode 0x007302B3#32 = .ok (.add 5 6 7) ∧ decode 0xFF930293#32 = .ok (.addi 5 6 0xFF9#12) ∧
    decode 0x03F31293#32 = .ok (.slli 5 6 63) ∧ decode 0x12345297#32 = .ok (.auipc 5 0x12345#20) ∧
    decode 0xFE731CE3#32 = .ok (.bne 6 7 0x1FF8#13) ∧ decode 0xFF1FF06F#32 = .ok (.jal 0 0x1FFFF0#21) ∧
    decode 0x007301A3#32 = .ok (.sb 6 7 3) ∧ decode 0x003312F3#32 = .ok (.csrrw 5 6 3) ∧
    decode 0x027322B3#32 = .ok (.mulhsu 5 6 7) ∧ decode 0x203170C3#32 = .ok (.fmaddS 1 2 3 4 7) ∧
    decode 0xD22330D3#32 = .ok (.fcvtDL 1 6 3) ∧ decode 0x1E7322AF#32 = .ok (.scW 5 6 7 true true)

/-- Decoding the encoding of a well-formed instruction gives it back, whatever its operands (R82 to R90). -/
def Obligations.DecodeInvertsEncode : Prop :=
  ∀ i : Instr, i.WellFormed → decode (encode i) = .ok i

/-- Every word that decodes is the encoding of the well-formed instruction it decodes to: no bit is dropped (R82 to R90). -/
def Obligations.EncodeInvertsDecode : Prop :=
  ∀ (w : Word) (i : Instr), decode w = .ok i → i.WellFormed ∧ encode i = w

/-- A word decodes exactly when it matches a row of the opcode table, the row of the instruction, and it matches no other
(R99, R425 step 4). -/
def Obligations.DecodeFollowsOpcodeTable : Prop :=
  (∀ w : Word, (∃ i, decode w = .ok i) ↔ ∃ r ∈ opcodeTable, r.Matches w) ∧
    (∀ (w : Word) (i : Instr), decode w = .ok i → i.row ∈ opcodeTable ∧ i.row.Matches w) ∧
    ∀ r ∈ opcodeTable, ∀ r' ∈ opcodeTable, ∀ w : Word, r.Matches w → r'.Matches w → r = r'

-- ==== Reset, the step, traps ====

/-- After reset `x0` reads 0, the reservation is none, the fetch view is memory, no trap has been taken, and `pc` is a
multiple of 4 that may be executed (R42, R440). What the other registers, `pc` itself, memory and the parameters hold is the
model's choice (log entries 1 to 4 and 7) and not stated here. -/
def Obligations.ResetHasTheStatedValues : Prop :=
  State.reset.readX 0 = 0 ∧ State.reset.resv = none ∧ State.reset.trap = none ∧ State.reset.pc.toNat % 4 = 0 ∧
    (∀ w : Nat, State.reset.fetchChoices w = [State.reset.mem.wordAt w]) ∧
    ∀ k < 4, permits State.reset.params .execute (State.reset.pc.toNat + k) = true

/-- A step of a running hart whose `pc` is aligned and executable, and whose fetch view holds no older value of the word
there, runs the instruction that the four bytes at `pc`, the lowest address the least significant, decode to, in the same
state (R53, R425). -/
def Obligations.StepRunsDecodedInstruction : Prop :=
  ∀ (s : State) (b₀ b₁ b₂ b₃ : Byte) (i : Instr), s.trap = none → s.pc.toNat % 4 = 0 →
    (∀ k < 4, permits s.params .execute (s.pc.toNat + k) = true) →
    s.mem.read s.pc.toNat = some b₀ → s.mem.read (s.pc.toNat + 1) = some b₁ → s.mem.read (s.pc.toNat + 2) = some b₂ →
    s.mem.read (s.pc.toNat + 3) = some b₃ →
    (∀ e ∈ s.stale, e.word = s.pc.toNat → e.value = some (b₃ ++ b₂ ++ b₁ ++ b₀)) →
    decode (b₃ ++ b₂ ++ b₁ ++ b₀) = .ok i → step s = exec i s

/-- A fetch where older values are held runs one of the values the word has held since the last `fence.i`, or its current
value; the state differs from `s` at most in the count of draws (R64). -/
def Obligations.StaleFetchRunsOldOrNewWord : Prop :=
  ∀ (s : State) (w : Word), s.trap = none → s.pc.toNat % 4 = 0 →
    (∀ k < 4, permits s.params .execute (s.pc.toNat + k) = true) → s.mem.wordAt s.pc.toNat = some w →
    (∀ e ∈ s.stale, e.word = s.pc.toNat → e.value ≠ none) →
    ∃ (v : Word) (d : Nat), step s = runWord v { s with draws := d } ∧
      (v = w ∨ ∃ e ∈ s.stale, e.word = s.pc.toNat ∧ e.value = some v)

/-- A word that matches no row raises `IllegalInstruction` with the word; nothing else changes but the reservation (R403). -/
def Obligations.UnmatchedWordIsIllegal : Prop :=
  ∀ (s : State) (w : Word), (∀ r ∈ opcodeTable, ¬ r.Matches w) →
    runWord w s = .next { s with resv := none, trap := some (.illegalInstruction w) }

/-- A fetch where a byte of the four lacks execute permission raises `InstructionAccessFault` with `pc` (R405). -/
def Obligations.FetchOutsideExecutableMemoryFaults : Prop :=
  ∀ (s : State) (k : Nat), s.trap = none → s.pc.toNat % 4 = 0 → k < 4 →
    permits s.params .execute (s.pc.toNat + k) = false →
    step s = .next { s with resv := none, trap := some (.instructionAccessFault s.pc) }

/-- A state with a trap record: the default environment ends the run; another one resumes from the state it supplies,
without a record (R400, R414). That the parameters and the count of draws stay is the model's choice (log entry 6). -/
def Obligations.TrapRecordGoesToEnvironment : Prop :=
  ∀ (env : EnvTrap) (s t : State) (e : Exception), s.trap = some e →
    step s = .fault (.halted e) ∧ (env e s = none → stepUnder env s = .fault (.halted e)) ∧
      (env e s = some t → stepUnder env s = .next { t with trap := none, params := s.params, draws := s.draws })

/-- An instruction that raises has no other effect than to clear the reservation: no register, CSR, memory byte or `pc`
changes, whatever the instruction (R400, R401). -/
def Obligations.RaisingInstructionChangesNothing : Prop :=
  ∀ (i : Instr) (s t : State) (e : Exception), s.trap = none → exec i s = .next t → t.trap = some e →
    t = { s with resv := none, trap := some e }

/-- An instruction raises no exception but those the table of R402 gives it; integer and floating-point arithmetic, moves and
fences raise none at all (R402, R412). -/
def Obligations.InstructionRaisesOnlyItsExceptions : Prop :=
  ∀ (i : Instr) (s t : State) (e : Exception), s.trap = none → exec i s = .next t → t.trap = some e →
    e.code ∈ mayRaise i

-- ==== Invariants and rules of the whole machine ====

/-- The state after reset meets the invariant. -/
def Obligations.ResetMeetsInvariant : Prop := State.reset.Inv

/-- Every step keeps the invariant: canonical memory, the zero of `x0`, an aligned `pc` (R26), a legal reservation (R39), a
legal fetch view (R64), no reservation beside a trap record (R400). -/
def Obligations.StepKeepsInvariant : Prop :=
  ∀ s t : State, s.Inv → step s = .next t → t.Inv

/-- No step changes the parameters, and none changes a byte of memory that MemMap does not let write (R5, R54, R58). -/
def Obligations.StepKeepsParametersAndProtectedMemory : Prop :=
  ∀ s t : State, step s = .next t →
    t.params = s.params ∧ ∀ a : Nat, permits s.params .write a = false → t.mem.read a = s.mem.read a

/-- No instruction but the six `csrr*` clears an accrued flag or changes the rounding mode (R228). -/
def Obligations.OnlyCsrInstructionsClearFlags : Prop :=
  ∀ (i : Instr) (s t : State), ¬ IsCsr i → exec i s = .next t → t.frm = s.frm ∧ t.fflags &&& s.fflags = s.fflags

/-- No instruction but `lr` and `sc` touches the reservation, unless it raises (R66). -/
def Obligations.OnlyReservationInstructionsTouchReservation : Prop :=
  ∀ (i : Instr) (s t : State), ¬ IsReservation i → s.trap = none → exec i s = .next t → t.trap = none → t.resv = s.resv

-- ==== RV64I computation ====

/-- Addition and subtraction: modulo 2^64, or modulo 2^32 and sign-extended; `auipc` adds to its own address (R122 to R125,
R128, R129, R148, R149). -/
def Obligations.AddAndSubtract : Prop :=
  ∀ (s : State) (rd rs1 rs2 : Reg) (imm : BitVec 12) (u : BitVec 20),
    let a := (s.readX rs1).toInt
    let b := (s.readX rs2).toInt
    CompletesX (.add rd rs1 rs2) s rd (BitVec.ofInt 64 (a + b)) ∧
    CompletesX (.sub rd rs1 rs2) s rd (BitVec.ofInt 64 (a - b)) ∧
    CompletesX (.addi rd rs1 imm) s rd (BitVec.ofInt 64 (a + imm.toInt)) ∧
    CompletesX (.addw rd rs1 rs2) s rd ((BitVec.ofInt 32 (a + b)).signExtend 64) ∧
    CompletesX (.subw rd rs1 rs2) s rd ((BitVec.ofInt 32 (a - b)).signExtend 64) ∧
    CompletesX (.addiw rd rs1 imm) s rd ((BitVec.ofInt 32 (a + imm.toInt)).signExtend 64) ∧
    CompletesX (.lui rd u) s rd (BitVec.ofInt 64 (u.toInt * 2 ^ 12)) ∧
    CompletesX (.auipc rd u) s rd (BitVec.ofInt 64 (s.pc.toInt + u.toInt * 2 ^ 12))

/-- The logical operations are bit by bit, the immediates sign-extended; the comparisons give 1 or 0, two's complement for
`slt`, `slti`, unsigned for `sltu`, `sltiu`, the immediate sign-extended first (R126, R127, R130, R131, R136 to R139, R150,
R151, R154). -/
def Obligations.LogicAndComparison : Prop :=
  ∀ (s : State) (rd rs1 rs2 : Reg) (imm : BitVec 12),
    let a := s.readX rs1
    let b := s.readX rs2
    let c := imm.signExtend 64
    CompletesX (.and rd rs1 rs2) s rd (a &&& b) ∧ CompletesX (.or rd rs1 rs2) s rd (a ||| b) ∧
    CompletesX (.xor rd rs1 rs2) s rd (a ^^^ b) ∧ CompletesX (.andi rd rs1 imm) s rd (a &&& c) ∧
    CompletesX (.ori rd rs1 imm) s rd (a ||| c) ∧ CompletesX (.xori rd rs1 imm) s rd (a ^^^ c) ∧
    CompletesX (.slt rd rs1 rs2) s rd (if a.toInt < b.toInt then 1 else 0) ∧
    CompletesX (.slti rd rs1 imm) s rd (if a.toInt < imm.toInt then 1 else 0) ∧
    CompletesX (.sltu rd rs1 rs2) s rd (if a.toNat < b.toNat then 1 else 0) ∧
    CompletesX (.sltiu rd rs1 imm) s rd (if a.toNat < c.toNat then 1 else 0)

/-- Shifts: multiplication by 2^n, and division by it rounded down, unsigned or signed; the amount is the low 6 bits of
`x[rs2]` or the 6-bit field. The Word forms shift the low 32 bits of `x[rs1]` by the low 5 bits of `x[rs2]` or the 5-bit field
and sign-extend from bit 31 (R121, R132 to R135, R140 to R147, R153). -/
def Obligations.Shifts : Prop :=
  ∀ (s : State) (rd rs1 rs2 : Reg) (sh : BitVec 6) (shw : BitVec 5),
    let a := s.readX rs1
    let n := (s.readX rs2).toNat % 64
    let w := a.extractLsb' 0 32
    let m := (s.readX rs2).toNat % 32
    CompletesX (.sll rd rs1 rs2) s rd (BitVec.ofNat 64 (a.toNat * 2 ^ n)) ∧
    CompletesX (.slli rd rs1 sh) s rd (BitVec.ofNat 64 (a.toNat * 2 ^ sh.toNat)) ∧
    CompletesX (.srl rd rs1 rs2) s rd (BitVec.ofNat 64 (a.toNat / 2 ^ n)) ∧
    CompletesX (.srli rd rs1 sh) s rd (BitVec.ofNat 64 (a.toNat / 2 ^ sh.toNat)) ∧
    CompletesX (.sra rd rs1 rs2) s rd (BitVec.ofInt 64 (a.toInt / 2 ^ n)) ∧
    CompletesX (.srai rd rs1 sh) s rd (BitVec.ofInt 64 (a.toInt / 2 ^ sh.toNat)) ∧
    CompletesX (.sllw rd rs1 rs2) s rd ((BitVec.ofNat 32 (w.toNat * 2 ^ m)).signExtend 64) ∧
    CompletesX (.slliw rd rs1 shw) s rd ((BitVec.ofNat 32 (w.toNat * 2 ^ shw.toNat)).signExtend 64) ∧
    CompletesX (.srlw rd rs1 rs2) s rd ((BitVec.ofNat 32 (w.toNat / 2 ^ m)).signExtend 64) ∧
    CompletesX (.srliw rd rs1 shw) s rd ((BitVec.ofNat 32 (w.toNat / 2 ^ shw.toNat)).signExtend 64) ∧
    CompletesX (.sraw rd rs1 rs2) s rd ((BitVec.ofInt 32 (w.toInt / 2 ^ m)).signExtend 64) ∧
    CompletesX (.sraiw rd rs1 shw) s rd ((BitVec.ofInt 32 (w.toInt / 2 ^ shw.toNat)).signExtend 64)

-- ==== Control transfer ====

/-- A branch whose condition is false goes to the next instruction, whatever its offset; one whose condition is true goes to
`pc + offset` where that is a multiple of 4. Nothing else changes (R161 to R166). -/
def Obligations.BranchesGoWhereTheyShould : Prop :=
  ∀ (s : State) (rs1 rs2 : Reg) (off : BitVec 13),
    let a := s.readX rs1
    let b := s.readX rs2
    let t := BitVec.ofInt 64 (s.pc.toNat + off.toInt)
    ∀ p ∈ [(Instr.beq rs1 rs2 off, decide (a = b)), (.bne rs1 rs2 off, decide (a ≠ b)),
        (.blt rs1 rs2 off, decide (a.toInt < b.toInt)), (.bge rs1 rs2 off, decide (b.toInt ≤ a.toInt)),
        (.bltu rs1 rs2 off, decide (a.toNat < b.toNat)), (.bgeu rs1 rs2 off, decide (b.toNat ≤ a.toNat))],
      (p.2 = false → Completes p.1 s { } fun _ => True) ∧
      (p.2 = true → t.toNat % 4 = 0 → exec p.1 s = .next { s with pc := t }) ∧
      (p.2 = true → t.toNat % 4 ≠ 0 → Traps p.1 s (.instructionAddressMisaligned t))

/-- `jal` goes to `pc + offset` and links `pc + 4`; `jalr` goes to `x[rs1] + imm` with bit 0 cleared, `x[rs1]` being read
before the link register is written. Where the target is not a multiple of 4 (for `jalr`: where bit 1 of the sum is 1) they
raise and do not link (R160, R167, R168). -/
def Obligations.JumpsGoAndLink : Prop :=
  ∀ (s : State) (rd rs1 : Reg) (off : BitVec 21) (imm : BitVec 12),
    let link := written rd (BitVec.ofNat 64 (s.pc.toNat + 4))
    let t := BitVec.ofInt 64 (s.pc.toNat + off.toInt)
    let v := BitVec.ofInt 64 ((s.readX rs1).toInt + imm.toInt)
    let u := BitVec.ofNat 64 (v.toNat / 2 * 2)
    (t.toNat % 4 = 0 → ∃ s', exec (.jal rd off) s = .next s' ∧ s'.pc = t ∧ s'.readX rd = link ∧
      OnlyChanges { x := some rd } s s') ∧
    (t.toNat % 4 ≠ 0 → Traps (.jal rd off) s (.instructionAddressMisaligned t)) ∧
    (v.getLsbD 1 = false → ∃ s', exec (.jalr rd rs1 imm) s = .next s' ∧ s'.pc = u ∧ s'.readX rd = link ∧
      OnlyChanges { x := some rd } s s') ∧
    (v.getLsbD 1 = true → Traps (.jalr rd rs1 imm) s (.instructionAddressMisaligned u))

/-- The rule of R160, on `exec`, at an aligned `pc`: a well-formed branch whose condition is false never raises; one whose
condition is true, and a well-formed `jal`, raise `InstructionAddressMisaligned` of their target exactly when bit 1 of the
offset is 1, and go to the target otherwise; `jalr` raises exactly when bit 1 of the computed address is 1. What raises keeps
`pc` and writes no link register. -/
def Obligations.TargetMisalignedExactlyWhenOffsetBitOne : Prop :=
  ∀ (s : State) (rd rs1 rs2 : Reg) (off : BitVec 13) (joff : BitVec 21) (imm : BitVec 12), s.pc.toNat % 4 = 0 →
    let a := s.readX rs1
    let b := s.readX rs2
    let t := BitVec.ofInt 64 (s.pc.toNat + off.toInt)
    let j := BitVec.ofInt 64 (s.pc.toNat + joff.toInt)
    let v := BitVec.ofInt 64 (a.toInt + imm.toInt)
    let u := BitVec.ofNat 64 (v.toNat / 2 * 2)
    let goes : Instr → Dword → Prop := fun i d => ∃ s', exec i s = .next s' ∧ s'.pc = d ∧ OnlyChanges { x := some rd } s s'
    (∀ p ∈ [(Instr.beq rs1 rs2 off, decide (a = b)), (.bne rs1 rs2 off, decide (a ≠ b)),
        (.blt rs1 rs2 off, decide (a.toInt < b.toInt)), (.bge rs1 rs2 off, decide (b.toInt ≤ a.toInt)),
        (.bltu rs1 rs2 off, decide (a.toNat < b.toNat)), (.bgeu rs1 rs2 off, decide (b.toNat ≤ a.toNat))],
      p.1.WellFormed →
      (p.2 = false → exec p.1 s = .next { s with pc := s.pc + 4 }) ∧
      (p.2 = true → off.getLsbD 1 = false → exec p.1 s = .next { s with pc := t }) ∧
      (p.2 = true → off.getLsbD 1 = true → Traps p.1 s (.instructionAddressMisaligned t))) ∧
    ((Instr.jal rd joff).WellFormed →
      (joff.getLsbD 1 = false → goes (.jal rd joff) j) ∧
      (joff.getLsbD 1 = true → Traps (.jal rd joff) s (.instructionAddressMisaligned j))) ∧
    (v.getLsbD 1 = false → goes (.jalr rd rs1 imm) u) ∧
    (v.getLsbD 1 = true → Traps (.jalr rd rs1 imm) s (.instructionAddressMisaligned u))

-- ==== Loads and stores ====

/-- A load whose address is aligned, readable and holds values puts them in the destination, little-endian, sign-extended or
zero-extended, boxed for `flw`; the address is `x[rs1] + imm` modulo 2^64, the immediate sign-extended (R52, R175 to R182, R230, R231). -/
def Obligations.LoadsComplete : Prop :=
  ∀ (s : State) (rd rs1 : Reg) (imm : BitVec 12) (bs : List Byte),
    let a := s.effAddr rs1 imm
    let v := leValue bs
    a.toNat = (((s.readX rs1).toNat + imm.toInt) % 2 ^ 64).toNat ∧
    (LoadReady s a 1 bs → CompletesX (.lb rd rs1 imm) s rd ((BitVec.ofNat 8 v).signExtend 64) ∧
      CompletesX (.lbu rd rs1 imm) s rd (BitVec.ofNat 64 v)) ∧
    (LoadReady s a 2 bs → CompletesX (.lh rd rs1 imm) s rd ((BitVec.ofNat 16 v).signExtend 64) ∧
      CompletesX (.lhu rd rs1 imm) s rd (BitVec.ofNat 64 v)) ∧
    (LoadReady s a 4 bs → CompletesX (.lw rd rs1 imm) s rd ((BitVec.ofNat 32 v).signExtend 64) ∧
      CompletesX (.lwu rd rs1 imm) s rd (BitVec.ofNat 64 v) ∧
      CompletesF (.flw rd rs1 imm) s rd (0xFFFFFFFF#32 ++ BitVec.ofNat 32 v)) ∧
    (LoadReady s a 8 bs → CompletesX (.ld rd rs1 imm) s rd (BitVec.ofNat 64 v) ∧
      CompletesF (.fld rd rs1 imm) s rd (BitVec.ofNat 64 v))

/-- A store whose address is aligned and writable writes the low bytes of its source, little-endian, and no other byte
(R52, R183 to R186, R232, R233). -/
def Obligations.StoresComplete : Prop :=
  ∀ (s : State) (rs1 rs2 : Reg) (imm : BitVec 12),
    let a := s.effAddr rs1 imm
    (StoreReady s a 1 → CompletesStore (.sb rs1 rs2 imm) s a 1 (s.readX rs2)) ∧
    (StoreReady s a 2 → CompletesStore (.sh rs1 rs2 imm) s a 2 (s.readX rs2)) ∧
    (StoreReady s a 4 → CompletesStore (.sw rs1 rs2 imm) s a 4 (s.readX rs2) ∧
      CompletesStore (.fsw rs1 rs2 imm) s a 4 (s.readF rs2)) ∧
    (StoreReady s a 8 → CompletesStore (.sd rs1 rs2 imm) s a 8 (s.readX rs2) ∧
      CompletesStore (.fsd rs1 rs2 imm) s a 8 (s.readF rs2))

/-- Loads, floating-point loads and `lr` raise `LoadAddressMisaligned` at an address that is not a multiple of the size, and
`LoadAccessFault` at an aligned one of which a byte may not be read (R54, R407, R408, R411). -/
def Obligations.LoadsTrapOnBadAddress : Prop :=
  ∀ (s : State) (rd rs1 : Reg) (imm : BitVec 12) (aq rl : Bool),
    let a := s.effAddr rs1 imm
    (∀ p ∈ [(Instr.lb rd rs1 imm, 1), (.lbu rd rs1 imm, 1), (.lh rd rs1 imm, 2), (.lhu rd rs1 imm, 2), (.lw rd rs1 imm, 4),
        (.lwu rd rs1 imm, 4), (.ld rd rs1 imm, 8), (.flw rd rs1 imm, 4), (.fld rd rs1 imm, 8)],
      TrapsOnBadAccess p.1 s a p.2 [.read] (.loadAddressMisaligned a) (.loadAccessFault a)) ∧
    ∀ p ∈ [(Instr.lrW rd rs1 aq rl, 4), (.lrD rd rs1 aq rl, 8)],
      TrapsOnBadAccess p.1 s (s.readX rs1) p.2 [.read] (.loadAddressMisaligned (s.readX rs1))
        (.loadAccessFault (s.readX rs1))

/-- Stores, floating-point stores, `sc` and the `amo*` raise `StoreAMOAddressMisaligned` at an address that is not a multiple
of the size, and `StoreAMOAccessFault` at an aligned one of which a byte may not be written, or, for an `amo*`, not be read
(R54, R407, R408, R411). -/
def Obligations.StoresTrapOnBadAddress : Prop :=
  ∀ (s : State) (rd rs1 rs2 : Reg) (imm : BitVec 12) (aq rl : Bool),
    let a := s.effAddr rs1 imm
    let b := s.readX rs1
    (∀ p ∈ [(Instr.sb rs1 rs2 imm, 1), (.sh rs1 rs2 imm, 2), (.sw rs1 rs2 imm, 4), (.sd rs1 rs2 imm, 8),
        (.fsw rs1 rs2 imm, 4), (.fsd rs1 rs2 imm, 8)],
      TrapsOnBadAccess p.1 s a p.2 [.write] (.storeAMOAddressMisaligned a) (.storeAMOAccessFault a)) ∧
    (∀ p ∈ [(Instr.scW rd rs1 rs2 aq rl, 4), (.scD rd rs1 rs2 aq rl, 8)],
      TrapsOnBadAccess p.1 s b p.2 [.write] (.storeAMOAddressMisaligned b) (.storeAMOAccessFault b)) ∧
    ∀ p ∈ [(Instr.amoaddW rd rs1 rs2 aq rl, 4), (.amoaddD rd rs1 rs2 aq rl, 8), (.amoandW rd rs1 rs2 aq rl, 4),
        (.amoandD rd rs1 rs2 aq rl, 8), (.amomaxW rd rs1 rs2 aq rl, 4), (.amomaxD rd rs1 rs2 aq rl, 8),
        (.amomaxuW rd rs1 rs2 aq rl, 4), (.amomaxuD rd rs1 rs2 aq rl, 8), (.amominW rd rs1 rs2 aq rl, 4),
        (.amominD rd rs1 rs2 aq rl, 8), (.amominuW rd rs1 rs2 aq rl, 4), (.amominuD rd rs1 rs2 aq rl, 8),
        (.amoorW rd rs1 rs2 aq rl, 4), (.amoorD rd rs1 rs2 aq rl, 8), (.amoswapW rd rs1 rs2 aq rl, 4),
        (.amoswapD rd rs1 rs2 aq rl, 8), (.amoxorW rd rs1 rs2 aq rl, 4), (.amoxorD rd rs1 rs2 aq rl, 8)],
      TrapsOnBadAccess p.1 s b p.2 [.read, .write] (.storeAMOAddressMisaligned b) (.storeAMOAccessFault b)

/-- After `sd` of a value, `ld` gives it back, and `lb`, `lhu`, `lw` at an offset within the same doubleword give the bytes
that lie there (R61). -/
def Obligations.MixedWidthLoadsSeeTheStoredBytes : Prop :=
  ∀ (s t : State) (rd rs1 rs2 : Reg) (imm : BitVec 12) (k : Nat),
    let a := s.effAddr rs1 imm
    StoreReady s a 8 → (∀ j < 8, permits s.params .read (a.toNat + j) = true) → exec (.sd rs1 rs2 imm) s = .next t →
    CompletesX (.ld rd rs1 imm) t rd (s.readX rs2) ∧
    (∀ rb : Reg, k < 8 → t.readX rb = a + BitVec.ofNat 64 k →
      CompletesX (.lb rd rb 0) t rd (((s.readX rs2).extractLsb' (8 * k) 8).signExtend 64) ∧
      (k % 2 = 0 → CompletesX (.lhu rd rb 0) t rd (((s.readX rs2).extractLsb' (8 * k) 16).setWidth 64)) ∧
      (k % 4 = 0 → CompletesX (.lw rd rb 0) t rd (((s.readX rs2).extractLsb' (8 * k) 32).signExtend 64)))

/-- After any instruction but `fence.i` has answered a next state, a fetch of a word may see what it could see before, which
takes in the value the word held, and the word's current value, and nothing else. So after a store of any form (`sb`, `sh`,
`sw`, `sd`, `fsw`, `fsd`, an `sc` that stores, an `amo*`) the old value of each word it touches may still be fetched, besides
what could be fetched already (R64). -/
def Obligations.StoreLeavesOldValueToFetch : Prop :=
  ∀ (i : Instr) (s t : State) (w : Nat), (∀ imm rs1 rd, i ≠ .fenceI imm rs1 rd) → w % 4 = 0 → exec i s = .next t →
    s.mem.wordAt w ∈ t.fetchChoices w ∧
      ∀ v : Option Word, v ∈ t.fetchChoices w ↔ v ∈ s.fetchChoices w ∨ v = t.mem.wordAt w

-- ==== CSRs, environment, fences ====

/-- The six `csrr*` on `fflags`, `frm` and `fcsr`: the old value to `x[rd]`, the new one written, set or cleared; the forms
that set or clear with the register number or constant 0 write nothing (R190 to R196). -/
def Obligations.CsrAccessCompletes : Prop :=
  ∀ (s : State) (rd rs1 : Reg) (u : BitVec 5), ∀ a ∈ [0x001#12, 0x002#12, 0x003#12],
    let old := BitVec.ofNat 64 (csrValue a s.fcsr.toNat)
    let x := s.readX rs1
    let c := u.setWidth 64
    CsrCompletes (.csrrw rd rs1 a) s a rd true x ∧ CsrCompletes (.csrrwi rd u a) s a rd true c ∧
    CsrCompletes (.csrrs rd rs1 a) s a rd (decide (rs1 ≠ 0)) (old ||| x) ∧
    CsrCompletes (.csrrsi rd u a) s a rd (decide (u ≠ 0)) (old ||| c) ∧
    CsrCompletes (.csrrc rd rs1 a) s a rd (decide (rs1 ≠ 0)) (old &&& ~~~x) ∧
    CsrCompletes (.csrrci rd u a) s a rd (decide (u ≠ 0)) (old &&& ~~~c)

/-- A `csrr*` that names an address that selects no register raises `IllegalInstruction` with its word, whether or not it
would write; without HAS_COUNTERS the counters select none (R33, R36, R190 step 1, R403). -/
def Obligations.AbsentCsrIsIllegal : Prop :=
  ∀ (s : State) (rd rs1 : Reg) (u : BitVec 5) (a : BitVec 12), a ∉ [0x001#12, 0x002#12, 0x003#12] →
    (s.params.hasCounters = true → a ∉ [0xC00#12, 0xC01#12, 0xC02#12]) →
    ∀ i ∈ [Instr.csrrw rd rs1 a, .csrrs rd rs1 a, .csrrc rd rs1 a, .csrrwi rd u a, .csrrsi rd u a, .csrrci rd u a],
      Traps i s (.illegalInstruction (encode i))

/-- Under HAS_COUNTERS a counter may be read and may not be written: a form that writes raises `IllegalInstruction`, a form
that does not completes with an unconstrained value in `x[rd]` (R36, R190 step 2). That the value is the draw of the model's
count is log entry 8. -/
def Obligations.CountersReadAsDrawsAndAreReadOnly : Prop :=
  ∀ (s : State) (rd rs1 : Reg) (u : BitVec 5), s.params.hasCounters = true → ∀ a ∈ [0xC00#12, 0xC01#12, 0xC02#12],
    (∀ i ∈ [Instr.csrrs rd 0 a, .csrrc rd 0 a, .csrrsi rd 0 a, .csrrci rd 0 a],
      Completes i s { x := some rd, draws := true } fun t =>
        t.readX rd = written rd (Config.freeCounter s.draws) ∧ t.draws = s.draws + 1) ∧
    (∀ i ∈ [Instr.csrrw rd rs1 a, .csrrwi rd u a], Traps i s (.illegalInstruction (encode i))) ∧
    (rs1 ≠ 0 → ∀ i ∈ [Instr.csrrs rd rs1 a, .csrrc rd rs1 a], Traps i s (.illegalInstruction (encode i))) ∧
    (u ≠ 0 → ∀ i ∈ [Instr.csrrsi rd u a, .csrrci rd u a], Traps i s (.illegalInstruction (encode i)))

/-- `ecall` and `ebreak` raise, always; nothing is written but the cleared reservation, and `pc` stays. `fence` only advances
`pc`; `fence.i` advances `pc` and makes the fetch view memory: a fetch then has one choice, the current value of the word
(R197 to R200, R406, R409). -/
def Obligations.EnvironmentInstructionsAndFences : Prop :=
  ∀ (s : State) (fm p q : BitVec 4) (rs1 rd : Reg) (imm : BitVec 12),
    Traps .ecall s .environmentCall ∧ Traps .ebreak s (.breakpoint s.pc) ∧
    Completes (.fence fm p q rs1 rd) s { } (fun _ => True) ∧
    Completes (.fenceI imm rs1 rd) s { fetchView := true } fun t => ∀ w : Nat, t.fetchChoices w = [s.mem.wordAt w]

-- ==== RV64M ====

/-- Products: the low half, the low word, and the high half with both operands signed, both unsigned, and the first signed
(R206 to R210). -/
def Obligations.Multiply : Prop :=
  ∀ (s : State) (rd rs1 rs2 : Reg),
    let a := s.readX rs1
    let b := s.readX rs2
    CompletesX (.mul rd rs1 rs2) s rd (BitVec.ofInt 64 (a.toInt * b.toInt)) ∧
    CompletesX (.mulw rd rs1 rs2) s rd ((BitVec.ofInt 32 (a.toInt * b.toInt)).signExtend 64) ∧
    CompletesX (.mulh rd rs1 rs2) s rd (BitVec.ofInt 64 (a.toInt * b.toInt / 2 ^ 64)) ∧
    CompletesX (.mulhu rd rs1 rs2) s rd (BitVec.ofNat 64 (a.toNat * b.toNat / 2 ^ 64)) ∧
    CompletesX (.mulhsu rd rs1 rs2) s rd (BitVec.ofInt 64 (a.toInt * b.toNat / 2 ^ 64))

/-- Quotients and remainders where the divisor is not zero, and the same for the low words: truncated towards zero, the
remainder with the sign of the dividend (R205, R211 to R218). The quotient that does not fit wraps to the values of R219. -/
def Obligations.DivideAndRemainder : Prop :=
  ∀ (s : State) (rd rs1 rs2 : Reg),
    let a := s.readX rs1
    let b := s.readX rs2
    let c := a.extractLsb' 0 32
    let d := b.extractLsb' 0 32
    (b ≠ 0 → CompletesX (.div rd rs1 rs2) s rd (BitVec.ofInt 64 (a.toInt.tdiv b.toInt)) ∧
      CompletesX (.divu rd rs1 rs2) s rd (BitVec.ofNat 64 (a.toNat / b.toNat)) ∧
      CompletesX (.rem rd rs1 rs2) s rd (BitVec.ofInt 64 (a.toInt.tmod b.toInt)) ∧
      CompletesX (.remu rd rs1 rs2) s rd (BitVec.ofNat 64 (a.toNat % b.toNat))) ∧
    (d ≠ 0 → CompletesX (.divw rd rs1 rs2) s rd ((BitVec.ofInt 32 (c.toInt.tdiv d.toInt)).signExtend 64) ∧
      CompletesX (.divuw rd rs1 rs2) s rd ((BitVec.ofNat 32 (c.toNat / d.toNat)).signExtend 64) ∧
      CompletesX (.remw rd rs1 rs2) s rd ((BitVec.ofInt 32 (c.toInt.tmod d.toInt)).signExtend 64) ∧
      CompletesX (.remuw rd rs1 rs2) s rd ((BitVec.ofNat 32 (c.toNat % d.toNat)).signExtend 64))

/-- The table of R219: a zero divisor gives all ones and the dividend; the one signed quotient that does not fit gives the
dividend and 0; nothing is raised. -/
def Obligations.DivisionCornerCases : Prop :=
  ∀ (s : State) (rd rs1 rs2 : Reg),
    let a := s.readX rs1
    let b := s.readX rs2
    let c := a.extractLsb' 0 32
    let d := b.extractLsb' 0 32
    (b = 0 → CompletesX (.div rd rs1 rs2) s rd (BitVec.allOnes 64) ∧ CompletesX (.divu rd rs1 rs2) s rd (BitVec.allOnes 64) ∧
      CompletesX (.rem rd rs1 rs2) s rd a ∧ CompletesX (.remu rd rs1 rs2) s rd a) ∧
    (d = 0 → CompletesX (.divw rd rs1 rs2) s rd (BitVec.allOnes 64) ∧
      CompletesX (.divuw rd rs1 rs2) s rd (BitVec.allOnes 64) ∧ CompletesX (.remw rd rs1 rs2) s rd (c.signExtend 64) ∧
      CompletesX (.remuw rd rs1 rs2) s rd (c.signExtend 64)) ∧
    (a.toInt = -2 ^ 63 → b.toInt = -1 → CompletesX (.div rd rs1 rs2) s rd a ∧ CompletesX (.rem rd rs1 rs2) s rd 0) ∧
    (c.toInt = -2 ^ 31 → d.toInt = -1 → CompletesX (.divw rd rs1 rs2) s rd (c.signExtend 64) ∧
      CompletesX (.remw rd rs1 rs2) s rd 0)

/-- For every pair of operands, the corners included, dividend = divisor × quotient + remainder modulo 2^64, signed and
unsigned (R205, R219). -/
def Obligations.DividendIsDivisorTimesQuotientPlusRemainder : Prop :=
  ∀ a b : Dword, a = b * divSigned a b + remSigned a b ∧ a = b * divUnsigned a b + remUnsigned a b ∧
    (b ≠ 0 → (remSigned a b).toInt.natAbs < b.toInt.natAbs ∧ (remUnsigned a b).toNat < b.toNat)

-- ==== Floating point: moves, comparisons ====

/-- A boxed single is read back; a register whose upper half is not all ones reads as the canonical NaN (R32, R226). -/
def Obligations.SinglesAreBoxed : Prop :=
  (∀ r : Word, unbox (box r) = r) ∧
    ∀ (s : State) (i : Reg), (s.readF i).extractLsb' 32 32 ≠ 0xFFFFFFFF#32 → s.readS i = 0x7FC00000#32

/-- Sign injection takes the sign from `rs2`, its inverse, or its exclusive or with the sign of `rs1`, and the other bits
from `rs1`; the moves copy bit patterns. No flag is set (R234 to R239, R252 to R256). -/
def Obligations.SignInjectionAndMoves : Prop :=
  ∀ (s : State) (rd rs1 rs2 : Reg),
    let a := s.readS rs1
    let b := s.readS rs2
    let c := s.readF rs1
    let d := s.readF rs2
    let single : Bool → Dword := fun n => 0xFFFFFFFF#32 ++ (BitVec.ofBool n ++ a.extractLsb' 0 31)
    let double : Bool → Dword := fun n => BitVec.ofBool n ++ c.extractLsb' 0 63
    CompletesF (.fsgnjS rd rs1 rs2) s rd (single (b.getLsbD 31)) ∧
    CompletesF (.fsgnjnS rd rs1 rs2) s rd (single (!b.getLsbD 31)) ∧
    CompletesF (.fsgnjxS rd rs1 rs2) s rd (single (a.getLsbD 31 ^^ b.getLsbD 31)) ∧
    CompletesF (.fsgnjD rd rs1 rs2) s rd (double (d.getLsbD 63)) ∧
    CompletesF (.fsgnjnD rd rs1 rs2) s rd (double (!d.getLsbD 63)) ∧
    CompletesF (.fsgnjxD rd rs1 rs2) s rd (double (c.getLsbD 63 ^^ d.getLsbD 63)) ∧
    CompletesF (.fmvSX rd rs1) s rd (0xFFFFFFFF#32 ++ (s.readX rs1).extractLsb' 0 32) ∧
    CompletesF (.fmvDX rd rs1) s rd (s.readX rs1) ∧
    CompletesX (.fmvXS rd rs1) s rd ((c.extractLsb' 0 32).signExtend 64) ∧ CompletesX (.fmvXD rd rs1) s rd c

/-- Minimum, maximum, comparisons and classification complete with the result and the flags of their operation on the
operands' patterns, singles unboxed and boxed (R240 to R251). What the operations give is said by the statements on
`Fmt.minmax`, the comparisons and the classes. -/
def Obligations.MinMaxCompareClassifyComplete : Prop :=
  ∀ (s : State) (rd rs1 rs2 : Reg),
    let a := (s.readS rs1).toNat
    let b := (s.readS rs2).toNat
    let c := (s.readF rs1).toNat
    let d := (s.readF rs2).toNat
    (∀ p ∈ [(Instr.fminS rd rs1 rs2, single.minmax false a b), (.fmaxS rd rs1 rs2, single.minmax true a b)],
      CompletesFFlags p.1 s rd (0xFFFFFFFF#32 ++ BitVec.ofNat 32 p.2.bits) p.2.flags) ∧
    (∀ p ∈ [(Instr.fminD rd rs1 rs2, double.minmax false c d), (.fmaxD rd rs1 rs2, double.minmax true c d)],
      CompletesFFlags p.1 s rd (BitVec.ofNat 64 p.2.bits) p.2.flags) ∧
    (∀ p ∈ [(Instr.feqS rd rs1 rs2, single.feq a b), (.fltS rd rs1 rs2, single.flt a b), (.fleS rd rs1 rs2, single.fle a b),
        (.feqD rd rs1 rs2, double.feq c d), (.fltD rd rs1 rs2, double.flt c d), (.fleD rd rs1 rs2, double.fle c d)],
      CompletesXFlags p.1 s rd (if p.2.holds then 1 else 0) p.2.flags) ∧
    CompletesX (.fclassS rd rs1) s rd (BitVec.ofNat 64 (2 ^ single.classBit a)) ∧
    CompletesX (.fclassD rd rs1) s rd (BitVec.ofNat 64 (2 ^ double.classBit c))

/-- The comparisons are those of the numbers the patterns stand for, −∞ and +∞ included, with no flag; −0 equals +0; with a
NaN all three are false, and NV is set by a signaling NaN for `feq`, by any NaN for `flt` and `fle` (R225, R258). -/
def Obligations.ComparisonsCompareTheNumbers : Prop :=
  ∀ F ∈ [single, double], ∀ a b : Nat,
    let va := F.unpack a
    let vb := F.unpack b
    (va.isNaN = false → vb.isNaN = false →
      ((F.flt a b).holds = true ↔ va.toExt < vb.toExt) ∧
      ((F.fle a b).holds = true ↔ va.toExt ≤ vb.toExt) ∧
      ((F.feq a b).holds = true ↔ va.toExt = vb.toExt) ∧
      (F.flt a b).flags = 0 ∧ (F.fle a b).flags = 0 ∧ (F.feq a b).flags = 0) ∧
    ((va.isNaN || vb.isNaN) = true →
      (F.flt a b).holds = false ∧ (F.fle a b).holds = false ∧ (F.feq a b).holds = false ∧
      (F.flt a b).flags = flagNV ∧ (F.fle a b).flags = flagNV ∧
      (F.feq a b).flags = flagIf (va.isSignaling || vb.isSignaling) flagNV)

/-- `fminmax` of R257: one NaN gives the other operand, two give the canonical NaN, NV for a signaling one; of two zeros the
minimum is −0 if either is and the maximum +0 if either is; of other operands, −∞ and +∞ included, the smaller or the
larger. -/
def Obligations.MinMaxFollowsRule : Prop :=
  ∀ F ∈ [single, double], ∀ a b : Nat,
    let va := F.unpack a
    let vb := F.unpack b
    (∀ m : Bool, (F.minmax m a b).flags = flagIf (va.isSignaling || vb.isSignaling) flagNV) ∧
    (va.isNaN = true → vb.isNaN = true → ∀ m : Bool, (F.minmax m a b).bits = F.canonicalNaN) ∧
    (va.isNaN = true → vb.isNaN = false → ∀ m : Bool, (F.minmax m a b).bits = b) ∧
    (va.isNaN = false → vb.isNaN = true → ∀ m : Bool, (F.minmax m a b).bits = a) ∧
    (va.isNaN = false → vb.isNaN = false → va.toExt = 0 → vb.toExt = 0 →
      (F.minmax false a b).bits = F.zero (F.signField a || F.signField b) ∧
      (F.minmax true a b).bits = F.zero (F.signField a && F.signField b)) ∧
    (va.isNaN = false → vb.isNaN = false → (va.toExt ≠ 0 ∨ vb.toExt ≠ 0) →
      (F.minmax false a b).bits = (if va.toExt < vb.toExt then a else b) ∧
      (F.minmax true a b).bits = (if vb.toExt < va.toExt then a else b))

/-- The class bit of R259 by the fields of the pattern (R225): exponent all ones and fraction 0 for an infinity, nonzero for
a NaN, quiet by the top fraction bit; exponent 0 for a zero or a subnormal; a normal number otherwise. -/
def Obligations.ClassifyFollowsTable : Prop :=
  ∀ F ∈ [single, double], ∀ a : Nat,
    let E := F.expField a
    let T := F.fracField a
    let n := F.signField a
    F.classBit a =
      if E = 2 ^ F.expBits - 1 then
        (if T = 0 then (if n then 0 else 7) else if T.testBit (F.fracBits - 1) then 9 else 8)
      else if E = 0 then (if T = 0 then (if n then 3 else 4) else (if n then 2 else 5))
      else (if n then 1 else 6)

-- ==== Floating point: arithmetic ====

/-- Add, subtract, multiply, divide, square root and the precision conversions complete, under a rounding mode that is not
reserved, with the result and the flags of their operation, singles unboxed and boxed (R260, R266 to R275, R284, R285). -/
def Obligations.FpArithmeticCompletes : Prop :=
  ∀ (s : State) (rd rs1 rs2 : Reg) (rm : BitVec 3) (m : RMode), s.rmode rm = some m →
    let a := (s.readS rs1).toNat
    let b := (s.readS rs2).toNat
    let c := (s.readF rs1).toNat
    let d := (s.readF rs2).toNat
    (∀ p ∈ [(Instr.faddS rd rs1 rs2 rm, single.add m a b), (.fsubS rd rs1 rs2 rm, single.sub m a b),
        (.fmulS rd rs1 rs2 rm, single.mul m a b), (.fdivS rd rs1 rs2 rm, single.div m a b),
        (.fsqrtS rd rs1 rm, single.sqrt m a), (.fcvtSD rd rs1 rm, single.convert double m c)],
      CompletesFFlags p.1 s rd (0xFFFFFFFF#32 ++ BitVec.ofNat 32 p.2.bits) p.2.flags) ∧
    ∀ p ∈ [(Instr.faddD rd rs1 rs2 rm, double.add m c d), (.fsubD rd rs1 rs2 rm, double.sub m c d),
        (.fmulD rd rs1 rs2 rm, double.mul m c d), (.fdivD rd rs1 rs2 rm, double.div m c d),
        (.fsqrtD rd rs1 rm, double.sqrt m c), (.fcvtDS rd rs1 rm, double.convert single m a)],
      CompletesFFlags p.1 s rd (BitVec.ofNat 64 p.2.bits) p.2.flags

/-- The eight fused instructions complete, under a rounding mode that is not reserved, with the result and the flags of the
fused operation, its product negated for `fnmadd` and `fnmsub`, its addend for `fmsub` and `fnmadd` (R262, R276 to R283). -/
def Obligations.FpFusedCompletes : Prop :=
  ∀ (s : State) (rd rs1 rs2 rs3 : Reg) (rm : BitVec 3) (m : RMode), s.rmode rm = some m →
    let fs := fun p q => single.fused m p q (s.readS rs1).toNat (s.readS rs2).toNat (s.readS rs3).toNat
    let fd := fun p q => double.fused m p q (s.readF rs1).toNat (s.readF rs2).toNat (s.readF rs3).toNat
    (∀ p ∈ [(Instr.fmaddS rd rs1 rs2 rs3 rm, fs false false), (.fmsubS rd rs1 rs2 rs3 rm, fs false true),
        (.fnmaddS rd rs1 rs2 rs3 rm, fs true true), (.fnmsubS rd rs1 rs2 rs3 rm, fs true false)],
      CompletesFFlags p.1 s rd (0xFFFFFFFF#32 ++ BitVec.ofNat 32 p.2.bits) p.2.flags) ∧
    ∀ p ∈ [(Instr.fmaddD rd rs1 rs2 rs3 rm, fd false false), (.fmsubD rd rs1 rs2 rs3 rm, fd false true),
        (.fnmaddD rd rs1 rs2 rs3 rm, fd true true), (.fnmsubD rd rs1 rs2 rs3 rm, fd true false)],
      CompletesFFlags p.1 s rd (BitVec.ofNat 64 p.2.bits) p.2.flags

/-- The conversions between floating point and integers complete, under a rounding mode that is not reserved: from a signed
or unsigned word or doubleword by rounding the integer, to one by `to_int`, a 32-bit result sign-extended; `fcvt.d.w` and
`fcvt.d.wu` set no flag (R286 to R303). -/
def Obligations.FpIntConversionsComplete : Prop :=
  ∀ (s : State) (rd rs1 : Reg) (rm : BitVec 3) (m : RMode), s.rmode rm = some m →
    let x := s.readX rs1
    let w := x.extractLsb' 0 32
    let a := (s.readS rs1).toNat
    let c := (s.readF rs1).toNat
    (∀ p ∈ [(Instr.fcvtSW rd rs1 rm, w.toInt), (.fcvtSWu rd rs1 rm, (w.toNat : Int)), (.fcvtSL rd rs1 rm, x.toInt),
        (.fcvtSLu rd rs1 rm, (x.toNat : Int))],
      CompletesFFlags p.1 s rd (0xFFFFFFFF#32 ++ BitVec.ofNat 32 (single.ofInt m p.2).bits) (single.ofInt m p.2).flags) ∧
    (∀ p ∈ [(Instr.fcvtDL rd rs1 rm, x.toInt), (.fcvtDLu rd rs1 rm, (x.toNat : Int))],
      CompletesFFlags p.1 s rd (BitVec.ofNat 64 (double.ofInt m p.2).bits) (double.ofInt m p.2).flags) ∧
    (∀ p ∈ [(Instr.fcvtDW rd rs1 rm, w.toInt), (.fcvtDWu rd rs1 rm, (w.toNat : Int))],
      CompletesF p.1 s rd (BitVec.ofNat 64 (double.ofInt m p.2).bits) ∧ (double.ofInt m p.2).flags = 0) ∧
    (∀ p ∈ [(Instr.fcvtWS rd rs1 rm, single.toInt m 32 true a), (.fcvtWuS rd rs1 rm, single.toInt m 32 false a),
        (.fcvtWD rd rs1 rm, double.toInt m 32 true c), (.fcvtWuD rd rs1 rm, double.toInt m 32 false c)],
      CompletesXFlags p.1 s rd ((BitVec.ofInt 32 p.2.1).signExtend 64) p.2.2) ∧
    ∀ p ∈ [(Instr.fcvtLS rd rs1 rm, single.toInt m 64 true a), (.fcvtLuS rd rs1 rm, single.toInt m 64 false a),
        (.fcvtLD rd rs1 rm, double.toInt m 64 true c), (.fcvtLuD rd rs1 rm, double.toInt m 64 false c)],
      CompletesXFlags p.1 s rd (BitVec.ofInt 64 p.2.1) p.2.2

/-- `rmode`: 000 to 100 name the five modes, 111 asks for `fcsr.frm`, and 101, 110, and 111 over a reserved frm name none;
then each of the 36 instructions with an `rm` field raises `IllegalInstruction` with its word (R98, R227). -/
def Obligations.ReservedRoundingModeIsIllegal : Prop :=
  ∀ (s : State) (rd rs1 rs2 rs3 : Reg) (rm : BitVec 3),
    s.rmode rm = [some .rne, some .rtz, some .rdn, some .rup, some .rmm].getD
      (if rm = 7 then s.fcsr.toNat / 32 else rm.toNat) none ∧
    (s.rmode rm = none →
      ∀ i ∈ [Instr.faddS rd rs1 rs2 rm, .faddD rd rs1 rs2 rm, .fsubS rd rs1 rs2 rm, .fsubD rd rs1 rs2 rm,
          .fmulS rd rs1 rs2 rm, .fmulD rd rs1 rs2 rm, .fdivS rd rs1 rs2 rm, .fdivD rd rs1 rs2 rm, .fsqrtS rd rs1 rm,
          .fsqrtD rd rs1 rm, .fmaddS rd rs1 rs2 rs3 rm, .fmaddD rd rs1 rs2 rs3 rm, .fmsubS rd rs1 rs2 rs3 rm,
          .fmsubD rd rs1 rs2 rs3 rm, .fnmaddS rd rs1 rs2 rs3 rm, .fnmaddD rd rs1 rs2 rs3 rm, .fnmsubS rd rs1 rs2 rs3 rm,
          .fnmsubD rd rs1 rs2 rs3 rm, .fcvtSD rd rs1 rm, .fcvtDS rd rs1 rm, .fcvtSW rd rs1 rm, .fcvtDW rd rs1 rm,
          .fcvtSL rd rs1 rm, .fcvtDL rd rs1 rm, .fcvtSWu rd rs1 rm, .fcvtDWu rd rs1 rm, .fcvtSLu rd rs1 rm,
          .fcvtDLu rd rs1 rm, .fcvtWS rd rs1 rm, .fcvtWD rd rs1 rm, .fcvtLS rd rs1 rm, .fcvtLD rd rs1 rm,
          .fcvtWuS rd rs1 rm, .fcvtWuD rd rs1 rm, .fcvtLuS rd rs1 rm, .fcvtLuD rd rs1 rm],
        Traps i s (.illegalInstruction (encode i)))

/-- `round` is the rounding of R265, for every real number: each positive real is stood for by a number handed to `round`
(itself, or cut off after enough bits with something left below); and where a number stands for `a`, in the reals or in any
other ordered field with a floor, `round` gives a zero of the caller's sign without a flag if `a` is 0, and otherwise `a`
rounded to the format's precision or to its last subnormal place in the mode's direction, with overflow, inexactness and
tininess after rounding flagged as the rule says. -/
def Obligations.RoundIsTheSpecsRounding : Prop :=
  ∀ F ∈ [single, double],
    (∀ (neg : Bool) (a : ℝ), 0 < a → ∃ v : Exact, v.neg = neg ∧ v.StandsFor F.prec a) ∧
    ∀ (K : Type) [Field K] [LinearOrder K] [IsStrictOrderedRing K] [FloorRing K] (rm : RMode) (v : Exact) (zs : Bool) (a : K),
      v.StandsFor F.prec a →
      (a = 0 → F.round rm v zs = ⟨F.signBit zs, 0⟩) ∧ (a ≠ 0 → F.IsRounding rm v.neg a (F.round rm v zs))

/-- UF is never set without NX, and OF never without NX, whatever is rounded (R265). -/
def Obligations.UnderflowAndOverflowComeWithInexact : Prop :=
  ∀ (F : Fmt) (rm : RMode) (v : Exact) (zs : Bool),
    ((F.round rm v zs).flags &&& flagUF ≠ 0 → (F.round rm v zs).flags &&& flagNX = flagNX) ∧
    ((F.round rm v zs).flags &&& flagOF ≠ 0 → (F.round rm v zs).flags &&& flagNX = flagNX)

/-- Sums, differences, products and fused results of finite operands that are not zero are the exact number rounded once
(R261, R262, R266 to R271, R276 to R283). -/
def Obligations.ArithmeticRoundsTheExactResult : Prop :=
  ∀ F ∈ [single, double], ∀ (rm : RMode) (a b c : Nat) (np nc : Bool),
    (F.unpack a).IsFinite → (F.unpack b).IsFinite → (F.unpack c).IsFinite →
    let x := (F.unpack a).toRat
    let y := (F.unpack b).toRat
    let z := (F.unpack c).toRat
    let f := (if np then -1 else 1) * x * y + (if nc then -1 else 1) * z
    (x + y ≠ 0 → F.IsRounding rm (decide (x + y < 0)) |x + y| (F.add rm a b)) ∧
    (x - y ≠ 0 → F.IsRounding rm (decide (x - y < 0)) |x - y| (F.sub rm a b)) ∧
    (x * y ≠ 0 → F.IsRounding rm (decide (x * y < 0)) |x * y| (F.mul rm a b)) ∧
    (f ≠ 0 → F.IsRounding rm (decide (f < 0)) |f| (F.fused rm np nc a b c))

/-- Exact zeros: a sum, a difference or a fused result that is zero has the common sign of its two terms, and where their
signs differ + except under RDN; a product or quotient that is zero has the exclusive or of the signs; no flag (R261, R262). -/
def Obligations.ExactZeroResultsHaveTheRulesSign : Prop :=
  ∀ F ∈ [single, double], ∀ (rm : RMode) (a b c : Nat) (np nc : Bool),
    (F.unpack a).IsFinite → (F.unpack b).IsFinite → (F.unpack c).IsFinite →
    let x := (F.unpack a).toRat
    let y := (F.unpack b).toRat
    let z := (F.unpack c).toRat
    let f := (if np then -1 else 1) * x * y + (if nc then -1 else 1) * z
    let s := F.signField a
    let t := F.signField b
    let sum : Bool → Bool → FpOut := fun p q => ⟨F.zero (if p = q then p else decide (rm = .rdn)), 0⟩
    (x + y = 0 → F.add rm a b = sum s t) ∧ (x - y = 0 → F.sub rm a b = sum s (!t)) ∧
    (x * y = 0 → F.mul rm a b = ⟨F.zero (s != t), 0⟩) ∧
    (x = 0 → y ≠ 0 → F.div rm a b = ⟨F.zero (s != t), 0⟩) ∧
    (f = 0 → F.fused rm np nc a b c = sum ((s != t) != np) (F.signField c != nc))

/-- A quotient of finite nonzero patterns of the format is the exact quotient rounded once: nothing is lost by computing it
to a bounded number of bits (R272, R273; the method is log entry 14). -/
def Obligations.DivisionRoundsTheExactQuotient : Prop :=
  ∀ F ∈ [single, double], ∀ (rm : RMode) (a b : Nat), (F.unpack a).IsFinite → (F.unpack b).IsFinite →
    let x := (F.unpack a).toRat
    let y := (F.unpack b).toRat
    x ≠ 0 → y ≠ 0 → F.IsRounding rm (decide (x / y < 0)) |x / y| (F.div rm a b)

/-- The square root of a positive finite pattern is the real square root rounded once: nothing is lost by computing it to a
bounded number of bits (R274, R275; the method is log entry 14). -/
def Obligations.SquareRootIsCorrectlyRounded : Prop :=
  ∀ F ∈ [single, double], ∀ (rm : RMode) (a : Nat), (F.unpack a).IsFinite → 0 < (F.unpack a).toRat →
    F.IsRounding rm false (Real.sqrt ((F.unpack a).toRat : ℝ)) (F.sqrt rm a)

/-- The special operands of R261 for the arithmetic that is not fused: a NaN operand gives the canonical NaN, with NV if one
is signaling; the invalid operations give it with NV; a finite nonzero number over zero gives an infinity with DZ; other
infinite operands give the infinity, or the zero, of extended arithmetic without a flag; the root of −0 is −0. -/
def Obligations.SpecialOperandsGiveTheirResults : Prop :=
  ∀ F ∈ [single, double], ∀ (rm : RMode) (a b : Nat) (n n' : Bool),
    let va := F.unpack a
    let vb := F.unpack b
    let s := F.signField a != F.signField b
    let quieted : FpOut := ⟨F.canonicalNaN, flagIf (va.isSignaling || vb.isSignaling) flagNV⟩
    let invalid : FpOut := ⟨F.canonicalNaN, flagNV⟩
    ((va.isNaN || vb.isNaN) = true →
      F.add rm a b = quieted ∧ F.sub rm a b = quieted ∧ F.mul rm a b = quieted ∧ F.div rm a b = quieted) ∧
    (va.isNaN = true → F.sqrt rm a = ⟨F.canonicalNaN, flagIf va.isSignaling flagNV⟩) ∧
    (va = .inf n → vb = .inf (!n) → F.add rm a b = invalid) ∧ (va = .inf n → vb = .inf n → F.sub rm a b = invalid) ∧
    (va = .inf n → vb = .inf n' → F.div rm a b = invalid) ∧
    (va = .inf n → vb.IsFinite → vb.toRat = 0 → F.mul rm a b = invalid ∧ F.mul rm b a = invalid) ∧
    (va.IsFinite → va.toRat = 0 → vb.IsFinite → vb.toRat = 0 → F.div rm a b = invalid) ∧
    (va.IsFinite → va.toRat ≠ 0 → vb.IsFinite → vb.toRat = 0 → F.div rm a b = ⟨F.infinity s, flagDZ⟩) ∧
    (va = .inf n → (vb.IsFinite ∨ vb = .inf n) → F.add rm a b = ⟨F.infinity n, 0⟩ ∧ F.add rm b a = ⟨F.infinity n, 0⟩) ∧
    (va = .inf n → (vb.IsFinite ∨ vb = .inf (!n)) →
      F.sub rm a b = ⟨F.infinity n, 0⟩ ∧ F.sub rm b a = ⟨F.infinity (!n), 0⟩) ∧
    (va = .inf n → ((vb.IsFinite ∧ vb.toRat ≠ 0) ∨ vb = .inf n') →
      F.mul rm a b = ⟨F.infinity s, 0⟩ ∧ F.mul rm b a = ⟨F.infinity s, 0⟩) ∧
    (va = .inf n → vb.IsFinite → F.div rm a b = ⟨F.infinity s, 0⟩ ∧ F.div rm b a = ⟨F.zero s, 0⟩) ∧
    (va.IsFinite → va.toRat < 0 → F.sqrt rm a = invalid) ∧ (va = .inf true → F.sqrt rm a = invalid) ∧
    (va = .inf false → F.sqrt rm a = ⟨F.infinity false, 0⟩) ∧
    (va.IsFinite → va.toRat = 0 → F.sqrt rm a = ⟨F.zero (F.signField a), 0⟩)

/-- The special operands of a fused instruction (R261, R262): a product ∞ × 0 is invalid whatever is added, a quiet NaN
included; otherwise a NaN gives the canonical NaN, with NV if one is signaling; an infinite product gives its infinity unless
the opposite infinity is added, which is invalid; a finite product leaves an infinite addend. -/
def Obligations.FusedSpecialOperandsGiveTheirResults : Prop :=
  ∀ F ∈ [single, double], ∀ (rm : RMode) (np nc n n' : Bool) (a b c : Nat),
    let va := F.unpack a
    let vb := F.unpack b
    let vc := F.unpack c
    let s := (F.signField a != F.signField b) != np
    let invalid : FpOut := ⟨F.canonicalNaN, flagNV⟩
    let infTimesZero : FpVal → FpVal → Prop := fun u v => (u = .inf false ∨ u = .inf true) ∧ v.IsFinite ∧ v.toRat = 0
    let infTimes : FpVal → FpVal → Prop := fun u v => u = .inf n ∧ ((v.IsFinite ∧ v.toRat ≠ 0) ∨ v = .inf n')
    ((infTimesZero va vb ∨ infTimesZero vb va) → F.fused rm np nc a b c = invalid) ∧
    (¬ infTimesZero va vb → ¬ infTimesZero vb va → (va.isNaN || vb.isNaN || vc.isNaN) = true →
      F.fused rm np nc a b c =
        ⟨F.canonicalNaN, flagIf (va.isSignaling || vb.isSignaling || vc.isSignaling) flagNV⟩) ∧
    ((infTimes va vb ∨ infTimes vb va) →
      ((vc.IsFinite ∨ vc = .inf (s != nc)) → F.fused rm np nc a b c = ⟨F.infinity s, 0⟩) ∧
      (vc = .inf (!(s != nc)) → F.fused rm np nc a b c = invalid)) ∧
    (va.IsFinite → vb.IsFinite → vc = .inf n → F.fused rm np nc a b c = ⟨F.infinity (n != nc), 0⟩)

/-- The conversions to floating point: a finite number, and an integer, is rounded once to the format; a zero keeps its sign,
the integer 0 gives +0; an infinity stays; a NaN becomes the canonical one, with NV if signaling. From single to double
nothing is rounded (R284, R285, R303). -/
def Obligations.ConversionsRoundTheValue : Prop :=
  ∀ F ∈ [single, double], ∀ G ∈ [single, double], ∀ (rm : RMode) (a : Nat) (i : Int) (n : Bool),
    let v := G.unpack a
    let x := v.toRat
    (v.IsFinite → x ≠ 0 → F.IsRounding rm (decide (x < 0)) |x| (F.convert G rm a)) ∧
    (v.IsFinite → x = 0 → F.convert G rm a = ⟨F.zero (G.signField a), 0⟩) ∧
    (v = .inf n → F.convert G rm a = ⟨F.infinity n, 0⟩) ∧
    (v.isNaN = true → F.convert G rm a = ⟨F.canonicalNaN, flagIf v.isSignaling flagNV⟩) ∧
    (v.IsFinite → F = double → G = single →
      (F.unpack (F.convert G rm a).bits).IsFinite ∧ (F.unpack (F.convert G rm a).bits).toRat = x ∧
        (F.convert G rm a).flags = 0) ∧
    (i ≠ 0 → F.IsRounding rm (decide (i < 0)) |(i : ℚ)| (F.ofInt rm i)) ∧ F.ofInt rm 0 = ⟨F.zero false, 0⟩

/-- `to_int` of R302: a NaN and +∞ give the greatest integer and −∞ the least, with NV; a finite number is rounded in the
mode's direction, and a rounded value out of range gives the bound with NV; otherwise NX says whether it was rounded. -/
def Obligations.FloatToIntegerFollowsRule : Prop :=
  ∀ F ∈ [single, double], ∀ (rm : RMode) (n : Nat) (signed : Bool) (a : Nat), (n = 32 ∨ n = 64) →
    let lo : Int := if signed then -2 ^ (n - 1) else 0
    let hi : Int := if signed then 2 ^ (n - 1) - 1 else 2 ^ n - 1
    let v := (F.unpack a).toRat
    let r : Int := (if v < 0 then -1 else 1) * roundToInt rm (decide (v < 0)) |v|
    ((F.unpack a).isNaN = true → F.toInt rm n signed a = (hi, flagNV)) ∧
    (F.unpack a = .inf false → F.toInt rm n signed a = (hi, flagNV)) ∧
    (F.unpack a = .inf true → F.toInt rm n signed a = (lo, flagNV)) ∧
    ((F.unpack a).IsFinite →
      F.toInt rm n signed a =
        if hi < r then (hi, flagNV) else if r < lo then (lo, flagNV) else (r, flagIf (decide ((r : ℚ) ≠ v)) flagNX))

-- ==== Atomics ====

/-- The eighteen `amo*` on an aligned address that may be read and written and holds values: the old value, sign-extended for
the word forms, goes to `x[rd]` and the result of the operation to memory, the operands being read first; `aq` and `rl` change
nothing (R310 to R329). -/
def Obligations.AtomicOperationsComplete : Prop :=
  ∀ (s : State) (rd rs1 rs2 : Reg) (aq rl : Bool) (bs : List Byte),
    let a := s.readX rs1
    let w := BitVec.ofNat 32 (leValue bs)
    let v := (s.readX rs2).extractLsb' 0 32
    let d := BitVec.ofNat 64 (leValue bs)
    let u := s.readX rs2
    (LoadReady s a 4 bs → StoreReady s a 4 →
      ∀ p ∈ [(Instr.amoswapW rd rs1 rs2 aq rl, v), (.amoaddW rd rs1 rs2 aq rl, BitVec.ofNat 32 (w.toNat + v.toNat)),
          (.amoandW rd rs1 rs2 aq rl, w &&& v), (.amoorW rd rs1 rs2 aq rl, w ||| v), (.amoxorW rd rs1 rs2 aq rl, w ^^^ v),
          (.amomaxW rd rs1 rs2 aq rl, if v.toInt > w.toInt then v else w),
          (.amominW rd rs1 rs2 aq rl, if v.toInt < w.toInt then v else w),
          (.amomaxuW rd rs1 rs2 aq rl, if v.toNat > w.toNat then v else w),
          (.amominuW rd rs1 rs2 aq rl, if v.toNat < w.toNat then v else w)],
        CompletesAmo p.1 s rd a 4 (w.signExtend 64) (p.2.setWidth 64)) ∧
    (LoadReady s a 8 bs → StoreReady s a 8 →
      ∀ p ∈ [(Instr.amoswapD rd rs1 rs2 aq rl, u), (.amoaddD rd rs1 rs2 aq rl, BitVec.ofNat 64 (d.toNat + u.toNat)),
          (.amoandD rd rs1 rs2 aq rl, d &&& u), (.amoorD rd rs1 rs2 aq rl, d ||| u), (.amoxorD rd rs1 rs2 aq rl, d ^^^ u),
          (.amomaxD rd rs1 rs2 aq rl, if u.toInt > d.toInt then u else d),
          (.amominD rd rs1 rs2 aq rl, if u.toInt < d.toInt then u else d),
          (.amomaxuD rd rs1 rs2 aq rl, if u.toNat > d.toNat then u else d),
          (.amominuD rd rs1 rs2 aq rl, if u.toNat < d.toNat then u else d)],
        CompletesAmo p.1 s rd a 8 d p.2)

/-- `lr` loads, sign-extending a word, and reserves its address and size, whatever was reserved before; `rd` may be `x0`
(R66, R330, R331). -/
def Obligations.LoadReservedCompletes : Prop :=
  ∀ (s : State) (rd rs1 : Reg) (aq rl : Bool) (bs : List Byte),
    let a := s.readX rs1
    (LoadReady s a 4 bs → Completes (.lrW rd rs1 aq rl) s { x := some rd, resv := true } fun t =>
      t.readX rd = written rd ((BitVec.ofNat 32 (leValue bs)).signExtend 64) ∧ t.resv = some ⟨a, 4⟩) ∧
    (LoadReady s a 8 bs → Completes (.lrD rd rs1 aq rl) s { x := some rd, resv := true } fun t =>
      t.readX rd = written rd (BitVec.ofNat 64 (leValue bs)) ∧ t.resv = some ⟨a, 8⟩)

/-- `sc` on an aligned writable address: without a reservation of that address and size it writes 1 to `x[rd]` and nothing to
memory; with it, and SC_MAY_FAIL false, it stores and writes 0; with SC_MAY_FAIL true it does the one or the other. Every `sc`
clears the reservation (R66, R332, R333). -/
def Obligations.StoreConditionalCompletes : Prop :=
  ∀ (s : State) (rd rs1 rs2 : Reg) (aq rl : Bool),
    let a := s.readX rs1
    ∀ p ∈ [(Instr.scW rd rs1 rs2 aq rl, 4), (.scD rd rs1 rs2 aq rl, 8)], StoreReady s a p.2 →
      let fails : Bool → Prop := fun d => Completes p.1 s { x := some rd, resv := true, draws := d }
        fun t => t.readX rd = written rd 1 ∧ t.resv = none
      let stores : Bool → Prop := fun d =>
        Completes p.1 s { x := some rd, resv := true, stored := some (a.toNat, p.2), fetchView := true, draws := d }
          fun t => t.readX rd = written rd 0 ∧ t.resv = none ∧ Holds t a p.2 (s.readX rs2)
      (s.resv ≠ some ⟨a, p.2⟩ → fails false) ∧
      (s.resv = some ⟨a, p.2⟩ → s.params.scMayFail = false → stores false) ∧
      (s.resv = some ⟨a, p.2⟩ → s.params.scMayFail = true → fails true ∨ stores true)
end

