-- ==== Sys2Proof/Laws/Memory.lean ====
section
/-! SUPPORT. The laws of memory: what a read gives after a write, byte by byte and for little-endian values, and that every
operation keeps the canonical form. -/

namespace Sys2Proof.Machine

-- ==== Bytes ====

/-- A byte below every entry of a rising list holds no value. -/
theorem Memory.read_eq_none_of_lt {m : Memory} {a : Nat} (h : ∀ c ∈ m, a < c.1) : m.read a = none := by
  induction m with
  | nil => rfl
  | cons c m ih =>
    have hc := h c (by simp)
    simp only [Memory.read]
    rw [if_neg (by omega)]
    exact ih fun d hd => h d (by simp [hd])

/-- A written byte reads back and no other byte changes, whatever the form of the list. -/
theorem Memory.read_write (m : Memory) (a : Nat) (b : Byte) (c : Nat) :
    (m.write a b).read c = if c = a then some b else m.read c := by
  induction m with
  | nil =>
    simp only [Memory.write, Memory.read]
    split <;> split <;> first | rfl | omega
  | cons e m ih =>
    obtain ⟨k, v⟩ := e
    simp only [Memory.write]
    by_cases h₁ : a < k
    · rw [if_pos h₁]
      simp only [Memory.read]
      by_cases h : a = c
      · simp [h]
      · rw [if_neg h, if_neg (Ne.symm h)]
    · rw [if_neg h₁]
      by_cases h₂ : a = k
      · subst h₂
        rw [if_pos rfl]
        simp only [Memory.read]
        by_cases h : a = c
        · simp [h]
        · rw [if_neg h, if_neg (Ne.symm h), if_neg h]
      · rw [if_neg h₂]
        simp only [Memory.read, ih]
        by_cases h : k = c
        · rw [if_pos h, if_neg (by omega), if_pos h]
        · rw [if_neg h, if_neg h]

/-- The addresses a write leaves in the list. -/
theorem Memory.mem_write {m : Memory} {a : Nat} {b : Byte} {c : Host.Cell} (h : c ∈ m.write a b) : c = (a, b) ∨ c ∈ m := by
  induction m with
  | nil => simpa [Memory.write] using h
  | cons e m ih =>
    obtain ⟨k, v⟩ := e
    simp only [Memory.write] at h
    split at h
    · simpa using h
    · split at h
      · rcases List.mem_cons.mp h with h | h
        · exact .inl h
        · exact .inr (by simp [h])
      · rcases List.mem_cons.mp h with h | h
        · exact .inr (by simp [h])
        · rcases ih h with h | h
          · exact .inl h
          · exact .inr (by simp [h])

/-- The order of the addresses after a byte is written. -/
theorem Memory.rising_write {m : Memory} (a : Nat) (b : Byte) (h : m.Pairwise fun c d => c.1 < d.1) :
    (m.write a b).Pairwise fun c d => c.1 < d.1 := by
  induction m with
  | nil => simp [Memory.write]
  | cons e m ih =>
    obtain ⟨k, v⟩ := e
    obtain ⟨hk, hm⟩ := List.pairwise_cons.mp h
    simp only [Memory.write]
    split
    · rename_i h₁
      refine List.pairwise_cons.mpr ⟨fun c hc => ?_, h⟩
      rcases List.mem_cons.mp hc with rfl | hc
      · exact h₁
      · exact lt_trans h₁ (hk c hc)
    · split
      · rename_i h₂
        exact List.pairwise_cons.mpr ⟨fun c hc => h₂ ▸ hk c hc, hm⟩
      · refine List.pairwise_cons.mpr ⟨fun c hc => ?_, ih hm⟩
        rcases Memory.mem_write hc with rfl | hc
        · simp only
          omega
        · exact hk c hc

/-- A write of a byte of the address space keeps the canonical form. -/
theorem Memory.wf_write {m : Memory} {a : Nat} (b : Byte) (hm : m.wf) (ha : a < 2 ^ 64) : (m.write a b).wf := by
  refine ⟨Memory.rising_write a b hm.1, fun c hc => ?_⟩
  rcases Memory.mem_write hc with rfl | hc
  · exact ha
  · exact hm.2 c hc

/-- Memory with nothing listed is in canonical form. -/
theorem Memory.wf_nil : Memory.wf [] := by simp [Memory.wf]

/-- The memory after reset is in canonical form. -/
theorem reset_mem_wf : State.reset.mem.wf := Memory.wf_nil

-- ==== Little-endian values ====

/-- A store of `n` bytes keeps the canonical form. -/
theorem Memory.wf_writeLE (n : Nat) : ∀ {m : Memory} {a : Nat} (v : Nat), m.wf → a + n ≤ 2 ^ 64 → (m.writeLE a n v).wf := by
  induction n with
  | zero => intro m a v hm _; exact hm
  | succ n ih =>
    intro m a v hm ha
    exact ih _ (Memory.wf_write _ hm (by omega)) (by omega)

/-- A byte outside the bytes stored reads as before. -/
theorem Memory.read_writeLE_outside (n : Nat) : ∀ (m : Memory) (a v c : Nat), c < a ∨ a + n ≤ c →
    (m.writeLE a n v).read c = m.read c := by
  induction n with
  | zero => intro m a v c _; rfl
  | succ n ih =>
    intro m a v c h
    rw [Memory.writeLE, ih _ _ _ _ (by omega), Memory.read_write, if_neg (by omega)]

/-- A byte stored reads as the byte of the value at its place. -/
theorem Memory.read_writeLE_inside (n : Nat) : ∀ (m : Memory) (a v k : Nat), k < n →
    (m.writeLE a n v).read (a + k) = some (BitVec.ofNat 8 (v / 2 ^ (8 * k))) := by
  induction n with
  | zero => intro m a v k h; omega
  | succ n ih =>
    intro m a v k h
    rw [Memory.writeLE]
    cases k with
    | zero =>
      rw [Memory.read_writeLE_outside _ _ _ _ _ (by omega), Memory.read_write]
      simp
    | succ k =>
      rw [show a + (k + 1) = a + 1 + k by omega, ih _ _ _ _ (by omega), Nat.div_div_eq_div_mul,
        show 8 * (k + 1) = 8 + 8 * k by omega, pow_add]
      rfl

/-- Reading `n` bytes that all hold a value. -/
theorem Memory.readLE_succ (m : Memory) (a n : Nat) (b : Byte) (v : Nat) (h₁ : m.read a = some b)
    (h₂ : m.readLE (a + 1) n = some v) : m.readLE a (n + 1) = some (b.toNat + 256 * v) := by
  simp [Memory.readLE, h₁, h₂]

/-- A read of `n` bytes depends on those bytes alone. -/
theorem Memory.readLE_congr (n : Nat) : ∀ (m m' : Memory) (a : Nat), (∀ k < n, m.read (a + k) = m'.read (a + k)) →
    m.readLE a n = m'.readLE a n := by
  induction n with
  | zero => intro m m' a _; rfl
  | succ n ih =>
    intro m m' a h
    have h₀ := h 0 (by omega)
    rw [Nat.add_zero] at h₀
    have h₁ := ih m m' (a + 1) fun k hk => by simpa [Nat.add_assoc, Nat.add_comm, Nat.add_left_comm] using h (k + 1) (by omega)
    simp only [Memory.readLE, h₀, h₁]

/-- What is stored is read back: the low `8n` bits of the value. -/
theorem Memory.readLE_writeLE (n : Nat) : ∀ (m : Memory) (a v : Nat), (m.writeLE a n v).readLE a n = some (v % 2 ^ (8 * n)) := by
  induction n with
  | zero => intro m a v; simp [Memory.readLE, Nat.mod_one]
  | succ n ih =>
    intro m a v
    have h₁ : (m.writeLE a (n + 1) v).read a = some (BitVec.ofNat 8 v) := by
      simpa using Memory.read_writeLE_inside (n + 1) m a v 0 (by omega)
    rw [Memory.readLE_succ _ _ _ _ _ h₁ (by rw [Memory.writeLE]; exact ih _ _ _)]
    congr 1
    rw [BitVec.toNat_ofNat, show 8 * (n + 1) = 8 + 8 * n by omega, pow_add, Nat.mod_mul]
    rfl

/-- A read that succeeds gives a number below 2^(8n). -/
theorem Memory.readLE_lt (n : Nat) : ∀ {m : Memory} {a v : Nat}, m.readLE a n = some v → v < 2 ^ (8 * n) := by
  induction n with
  | zero => intro m a v h; simp [Memory.readLE] at h; omega
  | succ n ih =>
    intro m a v h
    simp only [Memory.readLE] at h
    split at h
    · rename_i b w _ hw
      have := ih hw
      have hb := b.isLt
      simp only [Option.some.injEq] at h
      rw [show 8 * (n + 1) = 8 + 8 * n by omega, pow_add]
      omega
    · cases h

end Sys2Proof.Machine
end

