-- ==== Sys2Proof/Laws/State.lean ====
section
/-! SUPPORT. One lemma per field per update of the state, and per reading that an update leaves alone: all true by
unfolding, so that no later proof unfolds a record update. -/

namespace Sys2Proof.Machine

-- ==== writeX ====

@[simp] theorem State.writeX_x (s : State) (i : Reg) (v : Dword) : (s.writeX i v).x = if i = 0#5 then s.x else s.x.set i.toNat v i.isLt := rfl
@[simp] theorem State.writeX_pc (s : State) (i : Reg) (v : Dword) : (s.writeX i v).pc = s.pc := rfl
@[simp] theorem State.writeX_f (s : State) (i : Reg) (v : Dword) : (s.writeX i v).f = s.f := rfl
@[simp] theorem State.writeX_fcsr (s : State) (i : Reg) (v : Dword) : (s.writeX i v).fcsr = s.fcsr := rfl
@[simp] theorem State.writeX_resv (s : State) (i : Reg) (v : Dword) : (s.writeX i v).resv = s.resv := rfl
@[simp] theorem State.writeX_mem (s : State) (i : Reg) (v : Dword) : (s.writeX i v).mem = s.mem := rfl
@[simp] theorem State.writeX_stale (s : State) (i : Reg) (v : Dword) : (s.writeX i v).stale = s.stale := rfl
@[simp] theorem State.writeX_trap (s : State) (i : Reg) (v : Dword) : (s.writeX i v).trap = s.trap := rfl
@[simp] theorem State.writeX_params (s : State) (i : Reg) (v : Dword) : (s.writeX i v).params = s.params := rfl
@[simp] theorem State.writeX_draws (s : State) (i : Reg) (v : Dword) : (s.writeX i v).draws = s.draws := rfl

@[simp] theorem State.writeX_readF (s : State) (i : Reg) (v : Dword) (j : Reg) :
    (s.writeX i v).readF j = s.readF j := rfl
@[simp] theorem State.writeX_readS (s : State) (i : Reg) (v : Dword) (j : Reg) :
    (s.writeX i v).readS j = s.readS j := rfl
@[simp] theorem State.writeX_fflags (s : State) (i : Reg) (v : Dword) :
    (s.writeX i v).fflags = s.fflags := rfl
@[simp] theorem State.writeX_frm (s : State) (i : Reg) (v : Dword) :
    (s.writeX i v).frm = s.frm := rfl
@[simp] theorem State.writeX_rmode (s : State) (i : Reg) (v : Dword) (rm : BitVec 3) :
    (s.writeX i v).rmode rm = s.rmode rm := rfl
@[simp] theorem State.writeX_checkAccess (s : State) (i : Reg) (v : Dword) (k : AccessClass) (b : Dword) (m : Nat) :
    (s.writeX i v).checkAccess k b m = s.checkAccess k b m := rfl

-- ==== writeF ====

@[simp] theorem State.writeF_x (s : State) (i : Reg) (v : Dword) : (s.writeF i v).x = s.x := rfl
@[simp] theorem State.writeF_pc (s : State) (i : Reg) (v : Dword) : (s.writeF i v).pc = s.pc := rfl
@[simp] theorem State.writeF_f (s : State) (i : Reg) (v : Dword) : (s.writeF i v).f = s.f.set i.toNat v i.isLt := rfl
@[simp] theorem State.writeF_fcsr (s : State) (i : Reg) (v : Dword) : (s.writeF i v).fcsr = s.fcsr := rfl
@[simp] theorem State.writeF_resv (s : State) (i : Reg) (v : Dword) : (s.writeF i v).resv = s.resv := rfl
@[simp] theorem State.writeF_mem (s : State) (i : Reg) (v : Dword) : (s.writeF i v).mem = s.mem := rfl
@[simp] theorem State.writeF_stale (s : State) (i : Reg) (v : Dword) : (s.writeF i v).stale = s.stale := rfl
@[simp] theorem State.writeF_trap (s : State) (i : Reg) (v : Dword) : (s.writeF i v).trap = s.trap := rfl
@[simp] theorem State.writeF_params (s : State) (i : Reg) (v : Dword) : (s.writeF i v).params = s.params := rfl
@[simp] theorem State.writeF_draws (s : State) (i : Reg) (v : Dword) : (s.writeF i v).draws = s.draws := rfl

@[simp] theorem State.writeF_readX (s : State) (i : Reg) (v : Dword) (j : Reg) :
    (s.writeF i v).readX j = s.readX j := rfl
@[simp] theorem State.writeF_readXW (s : State) (i : Reg) (v : Dword) (j : Reg) :
    (s.writeF i v).readXW j = s.readXW j := rfl
@[simp] theorem State.writeF_fflags (s : State) (i : Reg) (v : Dword) :
    (s.writeF i v).fflags = s.fflags := rfl
@[simp] theorem State.writeF_frm (s : State) (i : Reg) (v : Dword) :
    (s.writeF i v).frm = s.frm := rfl
@[simp] theorem State.writeF_rmode (s : State) (i : Reg) (v : Dword) (rm : BitVec 3) :
    (s.writeF i v).rmode rm = s.rmode rm := rfl
@[simp] theorem State.writeF_effAddr (s : State) (i : Reg) (v : Dword) (j : Reg) (imm : BitVec 12) :
    (s.writeF i v).effAddr j imm = s.effAddr j imm := rfl
@[simp] theorem State.writeF_checkAccess (s : State) (i : Reg) (v : Dword) (k : AccessClass) (b : Dword) (m : Nat) :
    (s.writeF i v).checkAccess k b m = s.checkAccess k b m := rfl

-- ==== writeS ====

@[simp] theorem State.writeS_x (s : State) (i : Reg) (r : Word) : (s.writeS i r).x = s.x := rfl
@[simp] theorem State.writeS_pc (s : State) (i : Reg) (r : Word) : (s.writeS i r).pc = s.pc := rfl
@[simp] theorem State.writeS_f (s : State) (i : Reg) (r : Word) : (s.writeS i r).f = s.f.set i.toNat (box r) i.isLt := rfl
@[simp] theorem State.writeS_fcsr (s : State) (i : Reg) (r : Word) : (s.writeS i r).fcsr = s.fcsr := rfl
@[simp] theorem State.writeS_resv (s : State) (i : Reg) (r : Word) : (s.writeS i r).resv = s.resv := rfl
@[simp] theorem State.writeS_mem (s : State) (i : Reg) (r : Word) : (s.writeS i r).mem = s.mem := rfl
@[simp] theorem State.writeS_stale (s : State) (i : Reg) (r : Word) : (s.writeS i r).stale = s.stale := rfl
@[simp] theorem State.writeS_trap (s : State) (i : Reg) (r : Word) : (s.writeS i r).trap = s.trap := rfl
@[simp] theorem State.writeS_params (s : State) (i : Reg) (r : Word) : (s.writeS i r).params = s.params := rfl
@[simp] theorem State.writeS_draws (s : State) (i : Reg) (r : Word) : (s.writeS i r).draws = s.draws := rfl

@[simp] theorem State.writeS_readX (s : State) (i : Reg) (r : Word) (j : Reg) :
    (s.writeS i r).readX j = s.readX j := rfl
@[simp] theorem State.writeS_readXW (s : State) (i : Reg) (r : Word) (j : Reg) :
    (s.writeS i r).readXW j = s.readXW j := rfl
@[simp] theorem State.writeS_fflags (s : State) (i : Reg) (r : Word) :
    (s.writeS i r).fflags = s.fflags := rfl
@[simp] theorem State.writeS_frm (s : State) (i : Reg) (r : Word) :
    (s.writeS i r).frm = s.frm := rfl
@[simp] theorem State.writeS_rmode (s : State) (i : Reg) (r : Word) (rm : BitVec 3) :
    (s.writeS i r).rmode rm = s.rmode rm := rfl
@[simp] theorem State.writeS_effAddr (s : State) (i : Reg) (r : Word) (j : Reg) (imm : BitVec 12) :
    (s.writeS i r).effAddr j imm = s.effAddr j imm := rfl
@[simp] theorem State.writeS_checkAccess (s : State) (i : Reg) (r : Word) (k : AccessClass) (b : Dword) (m : Nat) :
    (s.writeS i r).checkAccess k b m = s.checkAccess k b m := rfl

-- ==== setPc ====

@[simp] theorem State.setPc_x (s : State) (t : Dword) : (s.setPc t).x = s.x := rfl
@[simp] theorem State.setPc_pc (s : State) (t : Dword) : (s.setPc t).pc = t := rfl
@[simp] theorem State.setPc_f (s : State) (t : Dword) : (s.setPc t).f = s.f := rfl
@[simp] theorem State.setPc_fcsr (s : State) (t : Dword) : (s.setPc t).fcsr = s.fcsr := rfl
@[simp] theorem State.setPc_resv (s : State) (t : Dword) : (s.setPc t).resv = s.resv := rfl
@[simp] theorem State.setPc_mem (s : State) (t : Dword) : (s.setPc t).mem = s.mem := rfl
@[simp] theorem State.setPc_stale (s : State) (t : Dword) : (s.setPc t).stale = s.stale := rfl
@[simp] theorem State.setPc_trap (s : State) (t : Dword) : (s.setPc t).trap = s.trap := rfl
@[simp] theorem State.setPc_params (s : State) (t : Dword) : (s.setPc t).params = s.params := rfl
@[simp] theorem State.setPc_draws (s : State) (t : Dword) : (s.setPc t).draws = s.draws := rfl

@[simp] theorem State.setPc_readX (s : State) (t : Dword) (j : Reg) :
    (s.setPc t).readX j = s.readX j := rfl
@[simp] theorem State.setPc_readXW (s : State) (t : Dword) (j : Reg) :
    (s.setPc t).readXW j = s.readXW j := rfl
@[simp] theorem State.setPc_readF (s : State) (t : Dword) (j : Reg) :
    (s.setPc t).readF j = s.readF j := rfl
@[simp] theorem State.setPc_readS (s : State) (t : Dword) (j : Reg) :
    (s.setPc t).readS j = s.readS j := rfl
@[simp] theorem State.setPc_fflags (s : State) (t : Dword) :
    (s.setPc t).fflags = s.fflags := rfl
@[simp] theorem State.setPc_frm (s : State) (t : Dword) :
    (s.setPc t).frm = s.frm := rfl
@[simp] theorem State.setPc_rmode (s : State) (t : Dword) (rm : BitVec 3) :
    (s.setPc t).rmode rm = s.rmode rm := rfl
@[simp] theorem State.setPc_effAddr (s : State) (t : Dword) (j : Reg) (imm : BitVec 12) :
    (s.setPc t).effAddr j imm = s.effAddr j imm := rfl
@[simp] theorem State.setPc_checkAccess (s : State) (t : Dword) (k : AccessClass) (b : Dword) (m : Nat) :
    (s.setPc t).checkAccess k b m = s.checkAccess k b m := rfl

-- ==== advance ====

@[simp] theorem State.advance_x (s : State) : s.advance.x = s.x := rfl
@[simp] theorem State.advance_pc (s : State) : s.advance.pc = s.pc + 4 := rfl
@[simp] theorem State.advance_f (s : State) : s.advance.f = s.f := rfl
@[simp] theorem State.advance_fcsr (s : State) : s.advance.fcsr = s.fcsr := rfl
@[simp] theorem State.advance_resv (s : State) : s.advance.resv = s.resv := rfl
@[simp] theorem State.advance_mem (s : State) : s.advance.mem = s.mem := rfl
@[simp] theorem State.advance_stale (s : State) : s.advance.stale = s.stale := rfl
@[simp] theorem State.advance_trap (s : State) : s.advance.trap = s.trap := rfl
@[simp] theorem State.advance_params (s : State) : s.advance.params = s.params := rfl
@[simp] theorem State.advance_draws (s : State) : s.advance.draws = s.draws := rfl

@[simp] theorem State.advance_readX (s : State) (j : Reg) :
    s.advance.readX j = s.readX j := rfl
@[simp] theorem State.advance_readXW (s : State) (j : Reg) :
    s.advance.readXW j = s.readXW j := rfl
@[simp] theorem State.advance_readF (s : State) (j : Reg) :
    s.advance.readF j = s.readF j := rfl
@[simp] theorem State.advance_readS (s : State) (j : Reg) :
    s.advance.readS j = s.readS j := rfl
@[simp] theorem State.advance_fflags (s : State) :
    s.advance.fflags = s.fflags := rfl
@[simp] theorem State.advance_frm (s : State) :
    s.advance.frm = s.frm := rfl
@[simp] theorem State.advance_rmode (s : State) (rm : BitVec 3) :
    s.advance.rmode rm = s.rmode rm := rfl
@[simp] theorem State.advance_effAddr (s : State) (j : Reg) (imm : BitVec 12) :
    s.advance.effAddr j imm = s.effAddr j imm := rfl
@[simp] theorem State.advance_checkAccess (s : State) (k : AccessClass) (b : Dword) (m : Nat) :
    s.advance.checkAccess k b m = s.checkAccess k b m := rfl

-- ==== withTrap ====

@[simp] theorem State.withTrap_x (s : State) (e : Exception) : (s.withTrap e).x = s.x := rfl
@[simp] theorem State.withTrap_pc (s : State) (e : Exception) : (s.withTrap e).pc = s.pc := rfl
@[simp] theorem State.withTrap_f (s : State) (e : Exception) : (s.withTrap e).f = s.f := rfl
@[simp] theorem State.withTrap_fcsr (s : State) (e : Exception) : (s.withTrap e).fcsr = s.fcsr := rfl
@[simp] theorem State.withTrap_resv (s : State) (e : Exception) : (s.withTrap e).resv = none := rfl
@[simp] theorem State.withTrap_mem (s : State) (e : Exception) : (s.withTrap e).mem = s.mem := rfl
@[simp] theorem State.withTrap_stale (s : State) (e : Exception) : (s.withTrap e).stale = s.stale := rfl
@[simp] theorem State.withTrap_trap (s : State) (e : Exception) : (s.withTrap e).trap = some e := rfl
@[simp] theorem State.withTrap_params (s : State) (e : Exception) : (s.withTrap e).params = s.params := rfl
@[simp] theorem State.withTrap_draws (s : State) (e : Exception) : (s.withTrap e).draws = s.draws := rfl

@[simp] theorem State.withTrap_readX (s : State) (e : Exception) (j : Reg) :
    (s.withTrap e).readX j = s.readX j := rfl
@[simp] theorem State.withTrap_readXW (s : State) (e : Exception) (j : Reg) :
    (s.withTrap e).readXW j = s.readXW j := rfl
@[simp] theorem State.withTrap_readF (s : State) (e : Exception) (j : Reg) :
    (s.withTrap e).readF j = s.readF j := rfl
@[simp] theorem State.withTrap_readS (s : State) (e : Exception) (j : Reg) :
    (s.withTrap e).readS j = s.readS j := rfl
@[simp] theorem State.withTrap_fflags (s : State) (e : Exception) :
    (s.withTrap e).fflags = s.fflags := rfl
@[simp] theorem State.withTrap_frm (s : State) (e : Exception) :
    (s.withTrap e).frm = s.frm := rfl
@[simp] theorem State.withTrap_rmode (s : State) (e : Exception) (rm : BitVec 3) :
    (s.withTrap e).rmode rm = s.rmode rm := rfl
@[simp] theorem State.withTrap_effAddr (s : State) (e : Exception) (j : Reg) (imm : BitVec 12) :
    (s.withTrap e).effAddr j imm = s.effAddr j imm := rfl
@[simp] theorem State.withTrap_checkAccess (s : State) (e : Exception) (k : AccessClass) (b : Dword) (m : Nat) :
    (s.withTrap e).checkAccess k b m = s.checkAccess k b m := rfl

-- ==== accrue ====

@[simp] theorem State.accrue_x (s : State) (F : Flags) : (s.accrue F).x = s.x := rfl
@[simp] theorem State.accrue_pc (s : State) (F : Flags) : (s.accrue F).pc = s.pc := rfl
@[simp] theorem State.accrue_f (s : State) (F : Flags) : (s.accrue F).f = s.f := rfl
@[simp] theorem State.accrue_fcsr (s : State) (F : Flags) : (s.accrue F).fcsr = s.frm ++ (s.fflags ||| F) := rfl
@[simp] theorem State.accrue_resv (s : State) (F : Flags) : (s.accrue F).resv = s.resv := rfl
@[simp] theorem State.accrue_mem (s : State) (F : Flags) : (s.accrue F).mem = s.mem := rfl
@[simp] theorem State.accrue_stale (s : State) (F : Flags) : (s.accrue F).stale = s.stale := rfl
@[simp] theorem State.accrue_trap (s : State) (F : Flags) : (s.accrue F).trap = s.trap := rfl
@[simp] theorem State.accrue_params (s : State) (F : Flags) : (s.accrue F).params = s.params := rfl
@[simp] theorem State.accrue_draws (s : State) (F : Flags) : (s.accrue F).draws = s.draws := rfl

@[simp] theorem State.accrue_readX (s : State) (F : Flags) (j : Reg) :
    (s.accrue F).readX j = s.readX j := rfl
@[simp] theorem State.accrue_readXW (s : State) (F : Flags) (j : Reg) :
    (s.accrue F).readXW j = s.readXW j := rfl
@[simp] theorem State.accrue_readF (s : State) (F : Flags) (j : Reg) :
    (s.accrue F).readF j = s.readF j := rfl
@[simp] theorem State.accrue_readS (s : State) (F : Flags) (j : Reg) :
    (s.accrue F).readS j = s.readS j := rfl
@[simp] theorem State.accrue_effAddr (s : State) (F : Flags) (j : Reg) (imm : BitVec 12) :
    (s.accrue F).effAddr j imm = s.effAddr j imm := rfl
@[simp] theorem State.accrue_checkAccess (s : State) (F : Flags) (k : AccessClass) (b : Dword) (m : Nat) :
    (s.accrue F).checkAccess k b m = s.checkAccess k b m := rfl

-- ==== writeCsr ====

@[simp] theorem State.writeCsr_x (s : State) (c : Csr) (v : Dword) : (s.writeCsr c v).x = s.x := rfl
@[simp] theorem State.writeCsr_pc (s : State) (c : Csr) (v : Dword) : (s.writeCsr c v).pc = s.pc := rfl
@[simp] theorem State.writeCsr_f (s : State) (c : Csr) (v : Dword) : (s.writeCsr c v).f = s.f := rfl
@[simp] theorem State.writeCsr_resv (s : State) (c : Csr) (v : Dword) : (s.writeCsr c v).resv = s.resv := rfl
@[simp] theorem State.writeCsr_mem (s : State) (c : Csr) (v : Dword) : (s.writeCsr c v).mem = s.mem := rfl
@[simp] theorem State.writeCsr_stale (s : State) (c : Csr) (v : Dword) : (s.writeCsr c v).stale = s.stale := rfl
@[simp] theorem State.writeCsr_trap (s : State) (c : Csr) (v : Dword) : (s.writeCsr c v).trap = s.trap := rfl
@[simp] theorem State.writeCsr_params (s : State) (c : Csr) (v : Dword) : (s.writeCsr c v).params = s.params := rfl
@[simp] theorem State.writeCsr_draws (s : State) (c : Csr) (v : Dword) : (s.writeCsr c v).draws = s.draws := rfl

@[simp] theorem State.writeCsr_readX (s : State) (c : Csr) (v : Dword) (j : Reg) :
    (s.writeCsr c v).readX j = s.readX j := rfl
@[simp] theorem State.writeCsr_readXW (s : State) (c : Csr) (v : Dword) (j : Reg) :
    (s.writeCsr c v).readXW j = s.readXW j := rfl
@[simp] theorem State.writeCsr_readF (s : State) (c : Csr) (v : Dword) (j : Reg) :
    (s.writeCsr c v).readF j = s.readF j := rfl
@[simp] theorem State.writeCsr_readS (s : State) (c : Csr) (v : Dword) (j : Reg) :
    (s.writeCsr c v).readS j = s.readS j := rfl
@[simp] theorem State.writeCsr_effAddr (s : State) (c : Csr) (v : Dword) (j : Reg) (imm : BitVec 12) :
    (s.writeCsr c v).effAddr j imm = s.effAddr j imm := rfl
@[simp] theorem State.writeCsr_checkAccess (s : State) (c : Csr) (v : Dword) (k : AccessClass) (b : Dword) (m : Nat) :
    (s.writeCsr c v).checkAccess k b m = s.checkAccess k b m := rfl

-- ==== drawn ====

@[simp] theorem State.drawn_x (s : State) : s.drawn.x = s.x := rfl
@[simp] theorem State.drawn_pc (s : State) : s.drawn.pc = s.pc := rfl
@[simp] theorem State.drawn_f (s : State) : s.drawn.f = s.f := rfl
@[simp] theorem State.drawn_fcsr (s : State) : s.drawn.fcsr = s.fcsr := rfl
@[simp] theorem State.drawn_resv (s : State) : s.drawn.resv = s.resv := rfl
@[simp] theorem State.drawn_mem (s : State) : s.drawn.mem = s.mem := rfl
@[simp] theorem State.drawn_stale (s : State) : s.drawn.stale = s.stale := rfl
@[simp] theorem State.drawn_trap (s : State) : s.drawn.trap = s.trap := rfl
@[simp] theorem State.drawn_params (s : State) : s.drawn.params = s.params := rfl
@[simp] theorem State.drawn_draws (s : State) : s.drawn.draws = s.draws + 1 := rfl

@[simp] theorem State.drawn_readX (s : State) (j : Reg) :
    s.drawn.readX j = s.readX j := rfl
@[simp] theorem State.drawn_readXW (s : State) (j : Reg) :
    s.drawn.readXW j = s.readXW j := rfl
@[simp] theorem State.drawn_readF (s : State) (j : Reg) :
    s.drawn.readF j = s.readF j := rfl
@[simp] theorem State.drawn_readS (s : State) (j : Reg) :
    s.drawn.readS j = s.readS j := rfl
@[simp] theorem State.drawn_fflags (s : State) :
    s.drawn.fflags = s.fflags := rfl
@[simp] theorem State.drawn_frm (s : State) :
    s.drawn.frm = s.frm := rfl
@[simp] theorem State.drawn_rmode (s : State) (rm : BitVec 3) :
    s.drawn.rmode rm = s.rmode rm := rfl
@[simp] theorem State.drawn_effAddr (s : State) (j : Reg) (imm : BitVec 12) :
    s.drawn.effAddr j imm = s.effAddr j imm := rfl
@[simp] theorem State.drawn_checkAccess (s : State) (k : AccessClass) (b : Dword) (m : Nat) :
    s.drawn.checkAccess k b m = s.checkAccess k b m := rfl

-- ==== setResv ====

@[simp] theorem State.setResv_x (s : State) (r : Option Reservation) : (s.setResv r).x = s.x := rfl
@[simp] theorem State.setResv_pc (s : State) (r : Option Reservation) : (s.setResv r).pc = s.pc := rfl
@[simp] theorem State.setResv_f (s : State) (r : Option Reservation) : (s.setResv r).f = s.f := rfl
@[simp] theorem State.setResv_fcsr (s : State) (r : Option Reservation) : (s.setResv r).fcsr = s.fcsr := rfl
@[simp] theorem State.setResv_resv (s : State) (r : Option Reservation) : (s.setResv r).resv = r := rfl
@[simp] theorem State.setResv_mem (s : State) (r : Option Reservation) : (s.setResv r).mem = s.mem := rfl
@[simp] theorem State.setResv_stale (s : State) (r : Option Reservation) : (s.setResv r).stale = s.stale := rfl
@[simp] theorem State.setResv_trap (s : State) (r : Option Reservation) : (s.setResv r).trap = s.trap := rfl
@[simp] theorem State.setResv_params (s : State) (r : Option Reservation) : (s.setResv r).params = s.params := rfl
@[simp] theorem State.setResv_draws (s : State) (r : Option Reservation) : (s.setResv r).draws = s.draws := rfl

@[simp] theorem State.setResv_readX (s : State) (r : Option Reservation) (j : Reg) :
    (s.setResv r).readX j = s.readX j := rfl
@[simp] theorem State.setResv_readXW (s : State) (r : Option Reservation) (j : Reg) :
    (s.setResv r).readXW j = s.readXW j := rfl
@[simp] theorem State.setResv_readF (s : State) (r : Option Reservation) (j : Reg) :
    (s.setResv r).readF j = s.readF j := rfl
@[simp] theorem State.setResv_readS (s : State) (r : Option Reservation) (j : Reg) :
    (s.setResv r).readS j = s.readS j := rfl
@[simp] theorem State.setResv_fflags (s : State) (r : Option Reservation) :
    (s.setResv r).fflags = s.fflags := rfl
@[simp] theorem State.setResv_frm (s : State) (r : Option Reservation) :
    (s.setResv r).frm = s.frm := rfl
@[simp] theorem State.setResv_rmode (s : State) (r : Option Reservation) (rm : BitVec 3) :
    (s.setResv r).rmode rm = s.rmode rm := rfl
@[simp] theorem State.setResv_effAddr (s : State) (r : Option Reservation) (j : Reg) (imm : BitVec 12) :
    (s.setResv r).effAddr j imm = s.effAddr j imm := rfl
@[simp] theorem State.setResv_checkAccess (s : State) (r : Option Reservation) (k : AccessClass) (b : Dword) (m : Nat) :
    (s.setResv r).checkAccess k b m = s.checkAccess k b m := rfl

-- ==== syncFetch ====

@[simp] theorem State.syncFetch_x (s : State) : s.syncFetch.x = s.x := rfl
@[simp] theorem State.syncFetch_pc (s : State) : s.syncFetch.pc = s.pc := rfl
@[simp] theorem State.syncFetch_f (s : State) : s.syncFetch.f = s.f := rfl
@[simp] theorem State.syncFetch_fcsr (s : State) : s.syncFetch.fcsr = s.fcsr := rfl
@[simp] theorem State.syncFetch_resv (s : State) : s.syncFetch.resv = s.resv := rfl
@[simp] theorem State.syncFetch_mem (s : State) : s.syncFetch.mem = s.mem := rfl
@[simp] theorem State.syncFetch_stale (s : State) : s.syncFetch.stale = [] := rfl
@[simp] theorem State.syncFetch_trap (s : State) : s.syncFetch.trap = s.trap := rfl
@[simp] theorem State.syncFetch_params (s : State) : s.syncFetch.params = s.params := rfl
@[simp] theorem State.syncFetch_draws (s : State) : s.syncFetch.draws = s.draws := rfl

@[simp] theorem State.syncFetch_readX (s : State) (j : Reg) :
    s.syncFetch.readX j = s.readX j := rfl
@[simp] theorem State.syncFetch_readXW (s : State) (j : Reg) :
    s.syncFetch.readXW j = s.readXW j := rfl
@[simp] theorem State.syncFetch_readF (s : State) (j : Reg) :
    s.syncFetch.readF j = s.readF j := rfl
@[simp] theorem State.syncFetch_readS (s : State) (j : Reg) :
    s.syncFetch.readS j = s.readS j := rfl
@[simp] theorem State.syncFetch_fflags (s : State) :
    s.syncFetch.fflags = s.fflags := rfl
@[simp] theorem State.syncFetch_frm (s : State) :
    s.syncFetch.frm = s.frm := rfl
@[simp] theorem State.syncFetch_rmode (s : State) (rm : BitVec 3) :
    s.syncFetch.rmode rm = s.rmode rm := rfl
@[simp] theorem State.syncFetch_effAddr (s : State) (j : Reg) (imm : BitVec 12) :
    s.syncFetch.effAddr j imm = s.effAddr j imm := rfl
@[simp] theorem State.syncFetch_checkAccess (s : State) (k : AccessClass) (b : Dword) (m : Nat) :
    s.syncFetch.checkAccess k b m = s.checkAccess k b m := rfl

-- ==== putBytes ====

@[simp] theorem State.putBytes_x (s : State) (a n v : Nat) : (s.putBytes a n v).x = s.x := rfl
@[simp] theorem State.putBytes_pc (s : State) (a n v : Nat) : (s.putBytes a n v).pc = s.pc := rfl
@[simp] theorem State.putBytes_f (s : State) (a n v : Nat) : (s.putBytes a n v).f = s.f := rfl
@[simp] theorem State.putBytes_fcsr (s : State) (a n v : Nat) : (s.putBytes a n v).fcsr = s.fcsr := rfl
@[simp] theorem State.putBytes_resv (s : State) (a n v : Nat) : (s.putBytes a n v).resv = s.resv := rfl
@[simp] theorem State.putBytes_mem (s : State) (a n v : Nat) : (s.putBytes a n v).mem = s.mem.writeLE a n v := rfl
@[simp] theorem State.putBytes_stale (s : State) (a n v : Nat) : (s.putBytes a n v).stale = s.staleAfter a n := rfl
@[simp] theorem State.putBytes_trap (s : State) (a n v : Nat) : (s.putBytes a n v).trap = s.trap := rfl
@[simp] theorem State.putBytes_params (s : State) (a n v : Nat) : (s.putBytes a n v).params = s.params := rfl
@[simp] theorem State.putBytes_draws (s : State) (a n v : Nat) : (s.putBytes a n v).draws = s.draws := rfl

@[simp] theorem State.putBytes_readX (s : State) (a n v : Nat) (j : Reg) :
    (s.putBytes a n v).readX j = s.readX j := rfl
@[simp] theorem State.putBytes_readXW (s : State) (a n v : Nat) (j : Reg) :
    (s.putBytes a n v).readXW j = s.readXW j := rfl
@[simp] theorem State.putBytes_readF (s : State) (a n v : Nat) (j : Reg) :
    (s.putBytes a n v).readF j = s.readF j := rfl
@[simp] theorem State.putBytes_readS (s : State) (a n v : Nat) (j : Reg) :
    (s.putBytes a n v).readS j = s.readS j := rfl
@[simp] theorem State.putBytes_fflags (s : State) (a n v : Nat) :
    (s.putBytes a n v).fflags = s.fflags := rfl
@[simp] theorem State.putBytes_frm (s : State) (a n v : Nat) :
    (s.putBytes a n v).frm = s.frm := rfl
@[simp] theorem State.putBytes_rmode (s : State) (a n v : Nat) (rm : BitVec 3) :
    (s.putBytes a n v).rmode rm = s.rmode rm := rfl
@[simp] theorem State.putBytes_effAddr (s : State) (a n v : Nat) (j : Reg) (imm : BitVec 12) :
    (s.putBytes a n v).effAddr j imm = s.effAddr j imm := rfl
@[simp] theorem State.putBytes_checkAccess (s : State) (a n v : Nat) (k : AccessClass) (b : Dword) (m : Nat) :
    (s.putBytes a n v).checkAccess k b m = s.checkAccess k b m := rfl

end Sys2Proof.Machine
end

