-- ==== Sys2Proof/Laws/Ops.lean ====
section
/-! SUPPORT. One lemma for each shared operation: everything it can do. Later proofs cite these and do not unfold the
operation. -/

namespace Sys2Proof.Machine

-- ==== Registers ====

/-- `x0` reads 0. -/
@[simp] theorem State.readX_zero (s : State) : s.readX 0#5 = 0 := by simp [State.readX]

/-- A write to `x0` changes nothing. -/
@[simp] theorem State.writeX_zero (s : State) (v : Dword) : s.writeX 0#5 v = s := by simp [State.writeX]

/-- An integer register reads what was written to it last, `x0` always 0. -/
theorem State.readX_writeX (s : State) (i j : Reg) (v : Dword) :
    (s.writeX i v).readX j = if j = 0#5 then 0 else if j = i then v else s.readX j := by
  unfold State.readX State.writeX
  by_cases hj : j = 0#5
  · simp [hj]
  · simp only [hj, if_false]
    by_cases hi : i = 0#5
    · subst hi
      simp [hj]
    · simp only [hi, if_false]
      by_cases hij : j = i
      · subst hij
        simp
      · have h : i.toNat ≠ j.toNat := fun h => hij (BitVec.eq_of_toNat_eq h.symm)
        simp [hij, h]

/-- The destination of a write reads as the value written. -/
@[simp] theorem State.readX_writeX_self (s : State) (i : Reg) (v : Dword) : (s.writeX i v).readX i = written i v := by
  rw [State.readX_writeX, written]
  simp

/-- Another register keeps its value. -/
theorem State.readX_writeX_ne (s : State) {i j : Reg} (v : Dword) (h : some i ≠ some j) :
    (s.writeX i v).readX j = s.readX j := by
  rw [State.readX_writeX]
  have : j ≠ i := fun e => h (by rw [e])
  simp only [this, if_false]
  split
  · rename_i h₀
    rw [h₀, State.readX_zero]
  · rfl

/-- A floating-point register reads what was written to it last. -/
theorem State.readF_writeF (s : State) (i j : Reg) (v : Dword) :
    (s.writeF i v).readF j = if j = i then v else s.readF j := by
  unfold State.readF State.writeF
  by_cases h : j = i
  · subst h
    simp
  · have h' : i.toNat ≠ j.toNat := fun e => h (BitVec.eq_of_toNat_eq e.symm)
    simp [h, h']

/-- The destination of a write reads as the value written. -/
@[simp] theorem State.readF_writeF_self (s : State) (i : Reg) (v : Dword) : (s.writeF i v).readF i = v := by
  rw [State.readF_writeF, if_pos rfl]

/-- Another register keeps its value. -/
theorem State.readF_writeF_ne (s : State) {i j : Reg} (v : Dword) (h : some i ≠ some j) :
    (s.writeF i v).readF j = s.readF j := by
  rw [State.readF_writeF, if_neg fun e => h (by rw [e])]

/-- The slot of `x0` is never written. -/
theorem State.writeX_slotZero (s : State) (i : Reg) (v : Dword) : (s.writeX i v).x[0] = s.x[0] := by
  simp only [State.writeX_x]
  split
  · rfl
  · rename_i h
    have : i.toNat ≠ 0 := fun e => h (BitVec.eq_of_toNat_eq e)
    simp [this]

-- ==== The floating-point status ====

/-- The flags of a control word put together from its parts. -/
theorem flags_of_append (m : BitVec 3) (F : BitVec 5) : (m ++ F : BitVec 8).extractLsb' 0 5 = F := by
  revert m F
  decide

/-- The rounding mode of a control word put together from its parts. -/
theorem frm_of_append (m : BitVec 3) (F : BitVec 5) : (m ++ F : BitVec 8).extractLsb' 5 3 = m := by
  revert m F
  decide

/-- Accruing ORs the flags in. -/
@[simp] theorem State.accrue_fflags (s : State) (F : Flags) : (s.accrue F).fflags = s.fflags ||| F := flags_of_append _ _

/-- Accruing leaves the rounding mode alone. -/
@[simp] theorem State.accrue_frm (s : State) (F : Flags) : (s.accrue F).frm = s.frm := frm_of_append _ _

-- ==== The checks of an access ====

/-- MemMap lets all `n` bytes be used so. -/
theorem permitsAll_iff (P : Params) (p : Permission) (a n : Nat) :
    permitsAll P p a n = true ↔ ∀ k < n, permits P p (a + k) = true := by
  simp [permitsAll]

/-- An access passes its checks exactly when it is aligned and allowed. -/
theorem State.checkAccess_none_iff (s : State) (c : AccessClass) (a : Dword) (n : Nat) :
    s.checkAccess c a n = none ↔ a.toNat % n = 0 ∧ c.allowed s.params a.toNat n = true := by
  unfold State.checkAccess
  split <;> rename_i h
  · simp [h]
  · simp only [not_not] at h
    split <;> simp_all

/-- A misaligned access raises, whatever MemMap says. -/
theorem State.checkAccess_misaligned (s : State) (c : AccessClass) (a : Dword) (n : Nat) (h : a.toNat % n ≠ 0) :
    s.checkAccess c a n = some (c.misaligned a) := by
  rw [State.checkAccess, if_pos h]

/-- An aligned access that is not allowed raises the access fault. -/
theorem State.checkAccess_forbidden (s : State) (c : AccessClass) (a : Dword) (n : Nat) (h : a.toNat % n = 0)
    (h' : c.allowed s.params a.toNat n = false) : s.checkAccess c a n = some (c.forbidden a) := by
  simp [State.checkAccess, h, h']

/-- The exceptions of a check. -/
theorem State.checkAccess_some {s : State} {c : AccessClass} {a : Dword} {n : Nat} {e : Exception}
    (h : s.checkAccess c a n = some e) : e = c.misaligned a ∨ e = c.forbidden a := by
  unfold State.checkAccess at h
  split at h
  · exact .inl (by simpa using h.symm)
  · split at h
    · cases h
    · exact .inr (by simpa using h.symm)

/-- What a read can do. -/
theorem State.memRead_cases (s : State) (c : AccessClass) (a : Dword) (n : Nat) :
    (∃ e, s.checkAccess c a n = some e ∧ s.memRead c a n = .raises e) ∨
      (s.checkAccess c a n = none ∧ s.mem.readLE a.toNat n = none ∧ s.memRead c a n = .noValue a.toNat) ∨
      ∃ v, s.checkAccess c a n = none ∧ s.mem.readLE a.toNat n = some v ∧ s.memRead c a n = .done v := by
  unfold State.memRead
  cases s.checkAccess c a n with
  | some e => exact .inl ⟨e, rfl, rfl⟩
  | none =>
    cases s.mem.readLE a.toNat n with
    | none => exact .inr (.inl ⟨rfl, rfl, rfl⟩)
    | some v => exact .inr (.inr ⟨v, rfl, rfl, rfl⟩)

/-- What the end of an access can answer, if it answers a next state. -/
theorem Access.finish_next {r : Access State} {s t : State} (h : r.finish s = .next t) :
    (∃ u, r = .done u ∧ t = u.advance) ∨ ∃ e, r = .raises e ∧ t = s.withTrap e := by
  cases r with
  | done u => exact .inl ⟨u, rfl, by simpa [Access.finish] using h.symm⟩
  | raises e => exact .inr ⟨e, rfl, by simpa [Access.finish, State.takeTrap] using h.symm⟩
  | noValue a => cases h

/-- What an instruction that reads memory answers, if it answers a next state: the update for the value read, or the trap of
its check. -/
theorem State.read_finish_next {s t : State} {c : AccessClass} {a : Dword} {n : Nat} {k : Nat → State}
    (h : ((s.memRead c a n).map k).finish s = .next t) :
    (∃ v, s.checkAccess c a n = none ∧ s.mem.readLE a.toNat n = some v ∧ t = (k v).advance) ∨
      ∃ e, s.checkAccess c a n = some e ∧ t = s.withTrap e := by
  rcases s.memRead_cases c a n with ⟨e, he, hr⟩ | ⟨_, _, hr⟩ | ⟨v, hc, hv, hr⟩ <;> rw [hr] at h
  · exact .inr ⟨e, he, by simpa [Access.map, Access.finish, State.takeTrap] using h.symm⟩
  · cases h
  · exact .inl ⟨v, hc, hv, by simpa [Access.map, Access.finish] using h.symm⟩

/-- What a store answers: the bytes written, or the trap of its check. -/
theorem State.store_eq (s : State) (a : Dword) (n v : Nat) :
    s.store a n v = match s.checkAccess .store a n with
      | none => .next (s.putBytes a.toNat n v).advance
      | some e => .next (s.withTrap e) := by
  unfold State.store State.memWrite
  cases s.checkAccess .store a n <;> rfl

-- ==== Values in memory ====

/-- Bytes that hold values read as the number they make. -/
theorem Memory.readLE_eq_leValue (m : Memory) : ∀ (bs : List Byte) (a : Nat),
    (∀ k (h : k < bs.length), m.read (a + k) = some bs[k]) → m.readLE a bs.length = some (leValue bs) := by
  intro bs
  induction bs with
  | nil => intro a _; rfl
  | cons b bs ih =>
    intro a h
    have h₀ : m.read a = some b := h 0 (by simp)
    refine Memory.readLE_succ m a bs.length b (leValue bs) h₀ (ih (a + 1) fun k hk => ?_)
    have := h (k + 1) (by simpa using hk)
    simpa [Nat.add_assoc, Nat.add_comm, Nat.add_left_comm] using this

/-- A load that is ready reads the value of its bytes. -/
theorem LoadReady.memRead {s : State} {a : Dword} {n : Nat} {bs : List Byte} (h : LoadReady s a n bs) :
    s.memRead .load a n = .done (leValue bs) := by
  have hc : s.checkAccess .load a n = none :=
    (s.checkAccess_none_iff _ _ _).mpr ⟨h.aligned, (permitsAll_iff _ _ _ _).mpr h.readable⟩
  have hr := s.mem.readLE_eq_leValue bs a.toNat h.holds
  rw [h.length] at hr
  simp [State.memRead, hc, hr]

/-- A store that is ready passes its check. -/
theorem StoreReady.check {s : State} {a : Dword} {n : Nat} (h : StoreReady s a n) : s.checkAccess .store a n = none :=
  (s.checkAccess_none_iff _ _ _).mpr ⟨h.aligned, (permitsAll_iff _ _ _ _).mpr h.writable⟩

/-- An atomic operation that is ready reads the value of its bytes. -/
theorem LoadReady.memReadAmo {s : State} {a : Dword} {n : Nat} {bs : List Byte} (h : LoadReady s a n bs)
    (h' : StoreReady s a n) : s.memRead .amo a n = .done (leValue bs) := by
  have hc : s.checkAccess .amo a n = none :=
    (s.checkAccess_none_iff _ _ _).mpr ⟨h.aligned, by
      simp [AccessClass.allowed, (permitsAll_iff _ _ _ _).mpr h.readable, (permitsAll_iff _ _ _ _).mpr h'.writable]⟩
  have hr := s.mem.readLE_eq_leValue bs a.toNat h.holds
  rw [h.length] at hr
  simp [State.memRead, hc, hr]

/-- An aligned access of a power of two of at most 8 bytes lies within the address space. -/
theorem aligned_in_space (a : Dword) (n : Nat) (hn : n = 1 ∨ n = 2 ∨ n = 4 ∨ n = 8) (h : a.toNat % n = 0) :
    a.toNat + n ≤ 2 ^ 64 := by
  have := a.isLt
  rcases hn with rfl | rfl | rfl | rfl <;> omega

-- ==== Control transfer ====

/-- What a jump answers: the target, if it is a multiple of 4; the trap otherwise. -/
theorem State.jumpTo_eq (s u : State) (t : Dword) :
    s.jumpTo u t = .next (if t.toNat % 4 = 0 then u.setPc t else s.withTrap (.instructionAddressMisaligned t)) := by
  unfold State.jumpTo
  by_cases h : t.toNat % 4 = 0 <;> simp [h, State.takeTrap]

/-- What a branch answers. -/
theorem State.branchIf_eq (s : State) (c : Bool) (off : BitVec 13) :
    s.branchIf c off = if c then s.jumpTo s (s.pc + off.signExtend 64) else .next s.advance := by
  unfold State.branchIf
  rfl

-- ==== CSRs, rounding modes, `sc` ====

/-- What a CSR access answers: always a next state, the trap or the state it built. -/
theorem State.csrAccess_eq (s : State) (i : Instr) (a : BitVec 12) (rd : Reg) (reads writes : Bool) (new : Dword → Dword) :
    s.csrAccess i a rd reads writes new = match csrAt s.params.hasCounters a with
      | none => .next (s.withTrap (.illegalInstruction (encode i)))
      | some c =>
        .next <|
          if writes && c.readOnly then s.withTrap (.illegalInstruction (encode i))
          else
            let r := if reads then s.readCsr c else (0, s)
            let s₁ := if writes then r.2.writeCsr c (new r.1) else r.2
            (if reads then s₁.writeX rd r.1 else s₁).advance := by
  unfold State.csrAccess
  cases csrAt s.params.hasCounters a with
  | none => rfl
  | some c =>
    simp only [State.takeTrap, State.completes]
    split <;> rfl

/-- What an instruction with an rm field answers. -/
theorem State.withRm_next {s t : State} {i : Instr} {rm : BitVec 3} {k : RMode → Result} (h : s.withRm i rm k = .next t) :
    (∃ m, s.rmode rm = some m ∧ k m = .next t) ∨ s.rmode rm = none ∧ t = s.withTrap (.illegalInstruction (encode i)) := by
  unfold State.withRm at h
  cases hr : s.rmode rm with
  | none => rw [hr] at h; exact .inr ⟨rfl, by simpa [State.takeTrap] using h.symm⟩
  | some m => rw [hr] at h; exact .inl ⟨m, rfl, h⟩

/-- What an `sc` answers: the trap of its check; the failure where the reservation does not match; otherwise the success, or,
where SC_MAY_FAIL is set, what the draw decides. -/
theorem State.storeConditional_eq (s : State) (rd : Reg) (a : Dword) (n v : Nat) :
    s.storeConditional rd a n v = .next (match s.checkAccess .store a n with
      | some e => s.withTrap e
      | none =>
        if s.resv = some ⟨a, n⟩ then
          if s.params.scMayFail then
            (if Config.freeSpurious s.draws then s.drawn.scFails rd else s.drawn.scSucceeds rd a n v).advance
          else (s.scSucceeds rd a n v).advance
        else (s.scFails rd).advance) := by
  unfold State.storeConditional
  cases s.checkAccess .store a n with
  | some e => rfl
  | none =>
    simp only [State.completes]
    split
    · split <;> rfl
    · rfl

-- ==== The fetch view ====

/-- The words a store adds to the fetch view. -/
theorem mem_noteStale {l : List StaleWord} {e d : StaleWord} (h : d ∈ noteStale l e) : d ∈ l ∨ d = e := by
  unfold noteStale at h
  split at h
  · exact .inl h
  · simpa using h

/-- A note keeps what was there and adds its entry. -/
theorem noteStale_mem (l : List StaleWord) (e d : StaleWord) : d ∈ noteStale l e ↔ d ∈ l ∨ d = e := by
  refine ⟨mem_noteStale, ?_⟩
  unfold noteStale
  rintro (h | rfl)
  · split
    · exact h
    · simp [h]
  · split
    · assumption
    · simp

/-- The fetch view after a store: what it held, and for each word touched its value before the store. -/
theorem State.mem_staleAfter (s : State) (a n : Nat) (d : StaleWord) :
    d ∈ s.staleAfter a n ↔ d ∈ s.stale ∨ ∃ w ∈ touchedWords a n, d = ⟨w, s.mem.wordAt w⟩ := by
  unfold State.staleAfter
  generalize touchedWords a n = ws
  generalize s.stale = l
  induction ws generalizing l with
  | nil => simp
  | cons w ws ih =>
    rw [List.foldl_cons, ih, noteStale_mem]
    simp only [List.mem_cons, exists_eq_or_imp]
    tauto

/-- What a fetch of a word may see: the older values held of it, and its current value. -/
theorem State.mem_fetchChoices (s : State) (w : Nat) (v : Option Word) :
    v ∈ s.fetchChoices w ↔ (∃ e ∈ s.stale, e.word = w ∧ e.value = v) ∨ v = s.mem.wordAt w := by
  unfold State.fetchChoices
  simp only [List.mem_append, List.mem_map, List.mem_filter, Bool.and_eq_true, decide_eq_true_eq, List.mem_singleton]
  constructor
  · rintro (⟨e, ⟨he, hw, _⟩, hv⟩ | h)
    · exact .inl ⟨e, he, hw, hv⟩
    · exact .inr h
  · rintro (⟨e, he, hw, hv⟩ | h)
    · by_cases h : v = s.mem.wordAt w
      · exact .inr h
      · exact .inl ⟨e, ⟨he, hw, by rwa [hv]⟩, hv⟩
    · exact .inr h

/-- A word is the same where its four bytes are. -/
theorem Memory.wordAt_congr {m m' : Memory} {w : Nat} (h : ∀ k < 4, m'.read (w + k) = m.read (w + k)) :
    m'.wordAt w = m.wordAt w := by
  have h0 := h 0 (by omega)
  have h1 := h 1 (by omega)
  have h2 := h 2 (by omega)
  have h3 := h 3 (by omega)
  simp only [Nat.add_zero] at h0
  simp only [Memory.wordAt, Memory.readLE, Nat.add_assoc, Nat.reduceAdd, h0, h1, h2, h3]

/-- The words an aligned access touches, among the multiples of 4: those it shares a byte with. -/
theorem mem_touchedWords {a n w : Nat} (hn : n = 1 ∨ n = 2 ∨ n = 4 ∨ n = 8) (ha : a % n = 0) (hw : w % 4 = 0) :
    w ∈ touchedWords a n ↔ w < a + n ∧ a < w + 4 := by
  unfold touchedWords
  rcases hn with rfl | rfl | rfl | rfl <;> simp <;> omega

/-- What a fetch may see after an aligned store: what it could see before, and the current value. -/
theorem State.mem_fetchChoices_putBytes (s : State) {a n w : Nat} (x : Nat) (v : Option Word)
    (hn : n = 1 ∨ n = 2 ∨ n = 4 ∨ n = 8) (ha : a % n = 0) (hw : w % 4 = 0) :
    v ∈ (s.putBytes a n x).fetchChoices w ↔ v ∈ s.fetchChoices w ∨ v = (s.putBytes a n x).mem.wordAt w := by
  have touched : (∃ e ∈ s.staleAfter a n, e.word = w ∧ e.value = v) ↔
      (∃ e ∈ s.stale, e.word = w ∧ e.value = v) ∨ (w ∈ touchedWords a n ∧ v = s.mem.wordAt w) := by
    simp only [State.mem_staleAfter]
    constructor
    · rintro ⟨e, he | ⟨u, hu, rfl⟩, rfl, rfl⟩
      · exact .inl ⟨e, he, rfl, rfl⟩
      · exact .inr ⟨hu, rfl⟩
    · rintro (⟨e, he, h⟩ | ⟨hu, rfl⟩)
      · exact ⟨e, .inl he, h⟩
      · exact ⟨⟨w, s.mem.wordAt w⟩, .inr ⟨w, hu, rfl⟩, rfl, rfl⟩
  rw [State.mem_fetchChoices, State.mem_fetchChoices, State.putBytes_stale, touched]
  by_cases h : w ∈ touchedWords a n
  · simp only [h, true_and]
  · have same : (s.putBytes a n x).mem.wordAt w = s.mem.wordAt w := by
      refine Memory.wordAt_congr fun k hk => ?_
      rw [mem_touchedWords hn ha hw] at h
      exact Memory.read_writeLE_outside n s.mem a x (w + k) (by omega)
    rw [same]
    simp only [h, false_and, or_false, or_assoc, or_self]

end Sys2Proof.Machine
end

