-- ==== Sys2Proof/Laws/Completes.lean ====
section
/-! SUPPORT. How each way an instruction ends reads in the terms of Safety.lean: the completion of an instruction whose
meaning is a given shared operation, with its frame. -/

namespace Sys2Proof.Machine

/-- `pc + 4` as a number. -/
theorem State.advance_pc_toNat (s : State) : s.advance.pc.toNat = (s.pc.toNat + 4) % 2 ^ 64 := by
  simp [State.advance_pc, BitVec.toNat_add]

/-- Nothing but `pc` has changed. -/
theorem OnlyChanges.pcOnly (c : Changes) (s : State) (t : Dword) : OnlyChanges c s (s.setPc t) where
  xKept _ _ := rfl
  fKept _ _ := rfl
  fcsrKept _ := rfl
  resvKept _ := rfl
  memKept _ _ := rfl
  fetchViewKept _ := rfl
  trapKept := rfl
  paramsKept := rfl
  drawsKept _ := rfl

/-- A change of `pc` after other changes. -/
theorem OnlyChanges.setPc {c : Changes} {s u : State} (h : OnlyChanges c s u) (t : Dword) : OnlyChanges c s (u.setPc t) where
  xKept r hr := h.xKept r hr
  fKept r hr := h.fKept r hr
  fcsrKept := h.fcsrKept
  resvKept := h.resvKept
  memKept := h.memKept
  fetchViewKept := h.fetchViewKept
  trapKept := h.trapKept
  paramsKept := h.paramsKept
  drawsKept := h.drawsKept

/-- A written integer register. -/
theorem OnlyChanges.writeX (s : State) (rd : Reg) (v : Dword) : OnlyChanges { x := some rd } s (s.writeX rd v) where
  xKept _ hr := State.readX_writeX_ne s v hr
  fKept _ _ := rfl
  fcsrKept _ := rfl
  resvKept _ := rfl
  memKept _ _ := rfl
  fetchViewKept _ := rfl
  trapKept := rfl
  paramsKept := rfl
  drawsKept _ := rfl

/-- A written floating-point register. -/
theorem OnlyChanges.writeF (s : State) (rd : Reg) (v : Dword) : OnlyChanges { f := some rd } s (s.writeF rd v) where
  xKept _ _ := rfl
  fKept _ hr := State.readF_writeF_ne s v hr
  fcsrKept _ := rfl
  resvKept _ := rfl
  memKept _ _ := rfl
  fetchViewKept _ := rfl
  trapKept := rfl
  paramsKept := rfl
  drawsKept _ := rfl

/-- Stored bytes. -/
theorem OnlyChanges.putBytes (s : State) (a n v : Nat) :
    OnlyChanges { stored := some (a, n), fetchView := true } s (s.putBytes a n v) where
  xKept _ _ := rfl
  fKept _ _ := rfl
  fcsrKept _ := rfl
  resvKept _ := rfl
  memKept c h := Memory.read_writeLE_outside n s.mem a v c (h a n rfl)
  fetchViewKept h := by cases h
  trapKept := rfl
  paramsKept := rfl
  drawsKept _ := rfl

/-- The bytes stored hold the value. -/
theorem holds_putBytes (s : State) (a : Dword) (n : Nat) (v : Dword) : Holds (s.putBytes a.toNat n v.toNat) a n v := by
  intro k hk
  rw [State.putBytes_mem, Memory.read_writeLE_inside n s.mem a.toNat v.toNat k hk]
  congr 1
  apply BitVec.eq_of_toNat_eq
  simp [BitVec.extractLsb'_toNat, Nat.shiftRight_eq_div_pow]

/-- An instruction that ends by writing an integer register. -/
theorem completesX_of_writeBack {i : Instr} {s : State} {rd : Reg} {v w : Dword} (h : exec i s = s.writeBack rd w)
    (hv : w = v) : CompletesX i s rd v := by
  subst hv
  exact ⟨_, h, State.advance_pc_toNat _, (OnlyChanges.writeX s rd w).setPc _, State.readX_writeX_self s rd w⟩

/-- An instruction that ends by writing a double. -/
theorem completesF_of_putD {i : Instr} {s : State} {rd : Reg} {v w : Dword} (h : exec i s = s.putD rd w) (hv : w = v) :
    CompletesF i s rd v := by
  subst hv
  exact ⟨_, h, State.advance_pc_toNat _, (OnlyChanges.writeF s rd w).setPc _, State.readF_writeF_self s rd w⟩

/-- An instruction that ends by writing a single. -/
theorem completesF_of_putS {i : Instr} {s : State} {rd : Reg} {v : Dword} {w : Word} (h : exec i s = s.putS rd w)
    (hv : box w = v) : CompletesF i s rd v := completesF_of_putD (w := box w) h hv

/-- A floating-point register and flags. -/
theorem OnlyChanges.writeF_accrue (s : State) (rd : Reg) (v : Dword) (F : Flags) :
    OnlyChanges { f := some rd, fcsr := true } s ((s.writeF rd v).accrue F) where
  xKept _ _ := rfl
  fKept _ hr := State.readF_writeF_ne s v hr
  fcsrKept h := by cases h
  resvKept _ := rfl
  memKept _ _ := rfl
  fetchViewKept _ := rfl
  trapKept := rfl
  paramsKept := rfl
  drawsKept _ := rfl

/-- An integer register and flags. -/
theorem OnlyChanges.writeX_accrue (s : State) (rd : Reg) (v : Dword) (F : Flags) :
    OnlyChanges { x := some rd, fcsr := true } s ((s.writeX rd v).accrue F) where
  xKept _ hr := State.readX_writeX_ne s v hr
  fKept _ _ := rfl
  fcsrKept h := by cases h
  resvKept _ := rfl
  memKept _ _ := rfl
  fetchViewKept _ := rfl
  trapKept := rfl
  paramsKept := rfl
  drawsKept _ := rfl

/-- An instruction that ends with a double and flags. -/
theorem completesFFlags_of_finishD {i : Instr} {s : State} {rd : Reg} {o : FpOut} (h : exec i s = s.finishD rd o) :
    CompletesFFlags i s rd (BitVec.ofNat 64 o.bits) o.flags :=
  ⟨_, h, State.advance_pc_toNat _, (OnlyChanges.writeF_accrue s rd _ _).setPc _, State.readF_writeF_self s rd _,
    State.accrue_fflags _ _, State.accrue_frm _ _⟩

/-- An instruction that ends with a single and flags. -/
theorem completesFFlags_of_finishS {i : Instr} {s : State} {rd : Reg} {o : FpOut} (h : exec i s = s.finishS rd o) :
    CompletesFFlags i s rd (0xFFFFFFFF#32 ++ BitVec.ofNat 32 o.bits) o.flags :=
  ⟨_, h, State.advance_pc_toNat _, (OnlyChanges.writeF_accrue s rd _ _).setPc _, State.readF_writeF_self s rd _,
    State.accrue_fflags _ _, State.accrue_frm _ _⟩

/-- An instruction that ends with an integer register and flags. -/
theorem completesXFlags_of {i : Instr} {s : State} {rd : Reg} {v : Dword} {F : Flags}
    (h : exec i s = ((s.writeX rd v).accrue F).completes) : CompletesXFlags i s rd v F :=
  ⟨_, h, State.advance_pc_toNat _, (OnlyChanges.writeX_accrue s rd _ _).setPc _, State.readX_writeX_self s rd _,
    State.accrue_fflags _ _, State.accrue_frm _ _⟩

/-- A load into an integer register that is ready. -/
theorem completesX_of_loadX {i : Instr} {s : State} {rd : Reg} {a : Dword} {n : Nat} {ext : Nat → Dword} {bs : List Byte}
    {v : Dword} (h : exec i s = s.loadX rd a n ext) (hr : LoadReady s a n bs) (hv : ext (leValue bs) = v) :
    CompletesX i s rd v := by
  refine completesX_of_writeBack (w := ext (leValue bs)) ?_ hv
  rw [h, State.loadX, hr.memRead]
  rfl

/-- A load into a floating-point register that is ready. -/
theorem completesF_of_loadF {i : Instr} {s : State} {rd : Reg} {a : Dword} {n : Nat} {k : Nat → Dword} {bs : List Byte}
    {v : Dword} (h : exec i s = s.loadF rd a n k) (hr : LoadReady s a n bs) (hv : k (leValue bs) = v) :
    CompletesF i s rd v := by
  refine completesF_of_putD (w := k (leValue bs)) ?_ hv
  rw [h, State.loadF, hr.memRead]
  rfl

/-- A store that is ready. -/
theorem completesStore_of_store {i : Instr} {s : State} {a : Dword} {n : Nat} {v : Dword}
    (h : exec i s = s.store a n v.toNat) (hr : StoreReady s a n) : CompletesStore i s a n v := by
  rw [State.store_eq, hr.check] at h
  exact ⟨_, h, State.advance_pc_toNat _, (OnlyChanges.putBytes s _ _ _).setPc _, holds_putBytes s a n v⟩

/-- An atomic operation that is ready. -/
theorem completesAmo_of_amo {i : Instr} {s : State} {rd : Reg} {a : Dword} {n : Nat} {op : Nat → Nat} {ext : Nat → Dword}
    {bs : List Byte} {old new : Dword} (h : exec i s = s.amo rd a n op ext) (hl : LoadReady s a n bs)
    (hs : StoreReady s a n) (ho : ext (leValue bs) = old) (hn : op (leValue bs) = new.toNat) :
    CompletesAmo i s rd a n old new := by
  rw [State.amo, hl.memReadAmo hs, Access.map, Access.finish, hn, ho] at h
  refine ⟨_, h, State.advance_pc_toNat _, ?_, State.readX_writeX_self _ rd old, holds_putBytes s a n new⟩
  have hp := OnlyChanges.putBytes s a.toNat n new.toNat
  exact
    { xKept := fun r hr => State.readX_writeX_ne _ old hr
      fKept := fun _ _ => rfl
      fcsrKept := fun _ => rfl
      resvKept := fun _ => rfl
      memKept := fun c hc => hp.memKept c hc
      fetchViewKept := fun hf => by cases hf
      trapKept := rfl
      paramsKept := rfl
      drawsKept := fun _ => rfl }

end Sys2Proof.Machine
end

