-- ==== Sys2Proof/Laws/Decode.lean ====
section
/-! SUPPORT. The fields of an encoded word are the fields it was made of; the immediates put together from their pieces are
the immediates that were cut up; a mask acts field by field. -/

namespace Sys2Proof

/-- The bits of a word made of the six fields. -/
theorem encR_getLsbD (f7 : BitVec 7) (rs2 rs1 : Reg) (f3 : BitVec 3) (rd : Reg) (op : BitVec 7) (i : Nat) :
    (encR f7 rs2 rs1 f3 rd op).getLsbD i =
      if i < 7 then op.getLsbD i else if i < 12 then rd.getLsbD (i - 7) else if i < 15 then f3.getLsbD (i - 12)
      else if i < 20 then rs1.getLsbD (i - 15) else if i < 25 then rs2.getLsbD (i - 20) else f7.getLsbD (i - 25) := by
  have h : (encR f7 rs2 rs1 f3 rd op).getLsbD i
      = (f7 ++ rs2 ++ rs1 ++ f3 ++ rd ++ op : BitVec (7 + 5 + 5 + 3 + 5 + 7)).getLsbD i := rfl
  rw [h]
  simp only [BitVec.getLsbD_append]
  (repeat' split) <;> first | omega | congr 1

section
variable (f7 : BitVec 7) (rs2 rs1 : Reg) (f3 : BitVec 3) (rd : Reg) (op : BitVec 7)

@[simp] theorem opcodeOf_encR : opcodeOf (encR f7 rs2 rs1 f3 rd op) = op := by
  unfold opcodeOf
  apply BitVec.eq_of_getLsbD_eq
  intro i hi
  simp only [BitVec.getLsbD_extractLsb', encR_getLsbD, hi]
  (repeat' split) <;> first | omega | simp

@[simp] theorem rdOf_encR : rdOf (encR f7 rs2 rs1 f3 rd op) = rd := by
  unfold rdOf
  apply BitVec.eq_of_getLsbD_eq
  intro i hi
  simp only [BitVec.getLsbD_extractLsb', encR_getLsbD, hi]
  (repeat' split) <;> first | omega | simp

@[simp] theorem funct3Of_encR : funct3Of (encR f7 rs2 rs1 f3 rd op) = f3 := by
  unfold funct3Of
  apply BitVec.eq_of_getLsbD_eq
  intro i hi
  simp only [BitVec.getLsbD_extractLsb', encR_getLsbD, hi]
  (repeat' split) <;> first | omega | simp

@[simp] theorem rs1Of_encR : rs1Of (encR f7 rs2 rs1 f3 rd op) = rs1 := by
  unfold rs1Of
  apply BitVec.eq_of_getLsbD_eq
  intro i hi
  simp only [BitVec.getLsbD_extractLsb', encR_getLsbD, hi]
  (repeat' split) <;> first | omega | simp

@[simp] theorem rs2Of_encR : rs2Of (encR f7 rs2 rs1 f3 rd op) = rs2 := by
  unfold rs2Of
  apply BitVec.eq_of_getLsbD_eq
  intro i hi
  simp only [BitVec.getLsbD_extractLsb', encR_getLsbD, hi]
  (repeat' split) <;> first | omega | simp

@[simp] theorem funct7Of_encR : funct7Of (encR f7 rs2 rs1 f3 rd op) = f7 := by
  unfold funct7Of
  apply BitVec.eq_of_getLsbD_eq
  intro i hi
  simp only [BitVec.getLsbD_extractLsb', encR_getLsbD, hi]
  (repeat' split) <;> first | omega | simp

/-- A mask acts field by field. -/
theorem encR_and (m : Word) : encR f7 rs2 rs1 f3 rd op &&& m =
    encR (f7 &&& funct7Of m) (rs2 &&& rs2Of m) (rs1 &&& rs1Of m) (f3 &&& funct3Of m) (rd &&& rdOf m) (op &&& opcodeOf m) := by
  apply BitVec.eq_of_getLsbD_eq
  intro i hi
  rw [BitVec.getLsbD_and, encR_getLsbD, encR_getLsbD]
  simp only [BitVec.getLsbD_and, funct7Of, rs2Of, rs1Of, funct3Of, rdOf, opcodeOf, BitVec.getLsbD_extractLsb']
  (repeat' split) <;> first
    | omega
    | (congr 1
       rw [decide_eq_true (by omega), Bool.true_and]
       congr 1
       omega)

/-- A decoded word is read through its fields. -/
theorem decode_encR : decode (encR f7 rs2 rs1 f3 rd op) = decodeFields f7 rs2 rs1 f3 rd op := by simp [decode]
end

/-- A word is made of its fields. -/
theorem encR_fields (w : Word) : encR (funct7Of w) (rs2Of w) (rs1Of w) (funct3Of w) (rdOf w) (opcodeOf w) = w := by
  apply BitVec.eq_of_getLsbD_eq
  intro i hi
  rw [encR_getLsbD]
  simp only [funct7Of, rs2Of, rs1Of, funct3Of, rdOf, opcodeOf, BitVec.getLsbD_extractLsb']
  (repeat' split) <;> first
    | omega
    | (rw [decide_eq_true (by omega), Bool.true_and]
       congr 1
       omega)

-- ==== Immediates ====

/-- The 12-bit immediate of format I. -/
@[simp] theorem immI_split (imm : BitVec 12) : immI (imm.extractLsb' 5 7) (imm.extractLsb' 0 5) = imm := by
  revert imm
  decide

/-- The 12-bit immediate of format S. -/
@[simp] theorem immS_split (imm : BitVec 12) : immS (imm.extractLsb' 5 7) (imm.extractLsb' 0 5) = imm := immI_split imm

/-- The 6-bit shift amount. -/
@[simp] theorem shamt6_split (f6 shamt : BitVec 6) :
    shamt6 (f6 ++ shamt.extractLsb' 5 1) (shamt.extractLsb' 0 5) = shamt := by
  revert f6 shamt
  decide

/-- The 13-bit offset of format SB, bit 0 zero. -/
theorem immSB_split (off : BitVec 13) (h : off.getLsbD 0 = false) :
    immSB (off.extractLsb' 12 1 ++ off.extractLsb' 5 6) (off.extractLsb' 1 4 ++ off.extractLsb' 11 1) = off := by
  apply BitVec.eq_of_getLsbD_eq
  intro i hi
  have h' (i : Nat) (v : BitVec 1) (a : BitVec 1) (b : BitVec 1) (c : BitVec 6) (d : BitVec 4) :
      (a ++ b ++ c ++ d ++ v : BitVec 13).getLsbD i = (a ++ b ++ c ++ d ++ v : BitVec (1 + 1 + 6 + 4 + 1)).getLsbD i := rfl
  unfold immSB
  rw [h']
  simp only [BitVec.getLsbD_append, BitVec.getLsbD_extractLsb', BitVec.getLsbD_zero]
  rcases i with _ | _ | _ | _ | _ | _ | _ | _ | _ | _ | _ | _ | _ | i <;> first
    | omega
    | (simp; done)
    | simpa using h

/-- The 20 bits of formats U and UJ. -/
@[simp] theorem immU_split (u : BitVec 20) :
    immU (u.extractLsb' 13 7) (u.extractLsb' 8 5) (u.extractLsb' 3 5) (u.extractLsb' 0 3) = u := by
  apply BitVec.eq_of_getLsbD_eq
  intro i hi
  have h' (i : Nat) (a : BitVec 7) (b c : BitVec 5) (d : BitVec 3) :
      (a ++ b ++ c ++ d : BitVec 20).getLsbD i = (a ++ b ++ c ++ d : BitVec (7 + 5 + 5 + 3)).getLsbD i := rfl
  unfold immU
  rw [h']
  simp only [BitVec.getLsbD_append, BitVec.getLsbD_extractLsb']
  (repeat' split) <;>
    (rw [decide_eq_true (by omega), Bool.true_and]; congr 1; omega)

/-- The 21-bit offset of format UJ, bit 0 zero. -/
theorem immUJ_split (off : BitVec 21) (h : off.getLsbD 0 = false) : immUJ (fieldUJ off) = off := by
  apply BitVec.eq_of_getLsbD_eq
  intro i hi
  have h₁ (i : Nat) (a : BitVec 1) (b : BitVec 8) (c : BitVec 1) (d : BitVec 10) (e : BitVec 1) :
      (a ++ b ++ c ++ d ++ e : BitVec 21).getLsbD i = (a ++ b ++ c ++ d ++ e : BitVec (1 + 8 + 1 + 10 + 1)).getLsbD i := rfl
  have h₂ (i : Nat) (a : BitVec 1) (b : BitVec 10) (c : BitVec 1) (d : BitVec 8) :
      (a ++ b ++ c ++ d : BitVec 20).getLsbD i = (a ++ b ++ c ++ d : BitVec (1 + 10 + 1 + 8)).getLsbD i := rfl
  unfold immUJ fieldUJ
  rw [h₁]
  simp only [BitVec.getLsbD_append, BitVec.getLsbD_extractLsb', h₂, BitVec.getLsbD_zero]
  rcases i with _ | _ | _ | _ | _ | _ | _ | _ | _ | _ | _ | _ | _ | _ | _ | _ | _ | _ | _ | _ | _ | i <;> first
    | omega
    | (simp; done)
    | simpa using h

end Sys2Proof
end

