-- ==== Sys2Proof/Laws/PerInstr.lean ====
section
/-! SUPPORT. For every instruction: the word the encoder writes matches the instruction's row of the opcode table. -/

namespace Sys2Proof.Laws

/-- The word of the instruction matches its own row (30_encoding.md R99). -/
def EncodesToRow.Statement (i : Instr) : Prop := i.row.Matches (encode i)

/-- The bits of a six-bit function code and the top bit of a shift amount under the mask of the code. -/
theorem shift6_and (f6 : BitVec 6) (b : BitVec 1) : (f6 ++ b : BitVec 7) &&& 0b1111110#7 = f6 ++ 0#1 := by
  revert f6 b
  decide

/-- The bits of a five-bit function code and the ordering bits under the mask of the code. -/
theorem amo_and (f5 : BitVec 5) (aq rl : Bool) :
    (f5 ++ BitVec.ofBool aq ++ BitVec.ofBool rl : BitVec 7) &&& 0b1111100#7 = f5 ++ 0#2 := by
  revert f5 aq rl
  decide

/-- The bits of rs3 and the format under the mask of the format. -/
theorem r4_and (rs3 : Reg) (fmt : BitVec 2) : (rs3 ++ fmt : BitVec 7) &&& 0b0000011#7 = 0#5 ++ fmt := by
  revert rs3 fmt
  decide

/-- A field whose mask is zero. -/
theorem masked_out {w : Nat} (v m : BitVec w) (h : m = 0#w) : v &&& m = 0#w := by simp [h]

/-- A masked word, from its six masked fields. -/
theorem mask_encoded (f7 : BitVec 7) (rs2 rs1 : Reg) (f3 : BitVec 3) (rd : Reg) (op : BitVec 7) (m p : Word)
    {g7 : BitVec 7} {q2 q1 : Reg} {g3 : BitVec 3} {qd : Reg} {gp : BitVec 7} (h₁ : f7 &&& funct7Of m = g7)
    (h₂ : rs2 &&& rs2Of m = q2) (h₃ : rs1 &&& rs1Of m = q1) (h₄ : f3 &&& funct3Of m = g3) (h₅ : rd &&& rdOf m = qd)
    (h₆ : op &&& opcodeOf m = gp) (h : encR g7 q2 q1 g3 qd gp = p) : encR f7 rs2 rs1 f3 rd op &&& m = p := by
  rw [encR_and, h₁, h₂, h₃, h₄, h₅, h₆, h]

theorem EncodesToRow.add (rd rs1 rs2 : Reg) : EncodesToRow.Statement (.add rd rs1 rs2) := by
  show encode (.add rd rs1 rs2) &&& 0xfe00707f#32 = 0x00000033#32
  exact mask_encoded _ _ _ _ _ _ _ _ rfl (masked_out _ _ rfl) (masked_out _ _ rfl) rfl (masked_out _ _ rfl) rfl rfl

theorem EncodesToRow.addw (rd rs1 rs2 : Reg) : EncodesToRow.Statement (.addw rd rs1 rs2) := by
  show encode (.addw rd rs1 rs2) &&& 0xfe00707f#32 = 0x0000003b#32
  exact mask_encoded _ _ _ _ _ _ _ _ rfl (masked_out _ _ rfl) (masked_out _ _ rfl) rfl (masked_out _ _ rfl) rfl rfl

theorem EncodesToRow.addi (rd rs1 : Reg) (imm : BitVec 12) : EncodesToRow.Statement (.addi rd rs1 imm) := by
  show encode (.addi rd rs1 imm) &&& 0x0000707f#32 = 0x00000013#32
  exact mask_encoded _ _ _ _ _ _ _ _ (masked_out _ _ rfl) (masked_out _ _ rfl) (masked_out _ _ rfl) rfl (masked_out _ _ rfl) rfl rfl

theorem EncodesToRow.addiw (rd rs1 : Reg) (imm : BitVec 12) : EncodesToRow.Statement (.addiw rd rs1 imm) := by
  show encode (.addiw rd rs1 imm) &&& 0x0000707f#32 = 0x0000001b#32
  exact mask_encoded _ _ _ _ _ _ _ _ (masked_out _ _ rfl) (masked_out _ _ rfl) (masked_out _ _ rfl) rfl (masked_out _ _ rfl) rfl rfl

theorem EncodesToRow.and (rd rs1 rs2 : Reg) : EncodesToRow.Statement (.and rd rs1 rs2) := by
  show encode (.and rd rs1 rs2) &&& 0xfe00707f#32 = 0x00007033#32
  exact mask_encoded _ _ _ _ _ _ _ _ rfl (masked_out _ _ rfl) (masked_out _ _ rfl) rfl (masked_out _ _ rfl) rfl rfl

theorem EncodesToRow.andi (rd rs1 : Reg) (imm : BitVec 12) : EncodesToRow.Statement (.andi rd rs1 imm) := by
  show encode (.andi rd rs1 imm) &&& 0x0000707f#32 = 0x00007013#32
  exact mask_encoded _ _ _ _ _ _ _ _ (masked_out _ _ rfl) (masked_out _ _ rfl) (masked_out _ _ rfl) rfl (masked_out _ _ rfl) rfl rfl

theorem EncodesToRow.auipc (rd : Reg) (imm : BitVec 20) : EncodesToRow.Statement (.auipc rd imm) := by
  show encode (.auipc rd imm) &&& 0x0000007f#32 = 0x00000017#32
  exact mask_encoded _ _ _ _ _ _ _ _ (masked_out _ _ rfl) (masked_out _ _ rfl) (masked_out _ _ rfl) (masked_out _ _ rfl) (masked_out _ _ rfl) rfl rfl

theorem EncodesToRow.lui (rd : Reg) (imm : BitVec 20) : EncodesToRow.Statement (.lui rd imm) := by
  show encode (.lui rd imm) &&& 0x0000007f#32 = 0x00000037#32
  exact mask_encoded _ _ _ _ _ _ _ _ (masked_out _ _ rfl) (masked_out _ _ rfl) (masked_out _ _ rfl) (masked_out _ _ rfl) (masked_out _ _ rfl) rfl rfl

theorem EncodesToRow.or (rd rs1 rs2 : Reg) : EncodesToRow.Statement (.or rd rs1 rs2) := by
  show encode (.or rd rs1 rs2) &&& 0xfe00707f#32 = 0x00006033#32
  exact mask_encoded _ _ _ _ _ _ _ _ rfl (masked_out _ _ rfl) (masked_out _ _ rfl) rfl (masked_out _ _ rfl) rfl rfl

theorem EncodesToRow.ori (rd rs1 : Reg) (imm : BitVec 12) : EncodesToRow.Statement (.ori rd rs1 imm) := by
  show encode (.ori rd rs1 imm) &&& 0x0000707f#32 = 0x00006013#32
  exact mask_encoded _ _ _ _ _ _ _ _ (masked_out _ _ rfl) (masked_out _ _ rfl) (masked_out _ _ rfl) rfl (masked_out _ _ rfl) rfl rfl

theorem EncodesToRow.sll (rd rs1 rs2 : Reg) : EncodesToRow.Statement (.sll rd rs1 rs2) := by
  show encode (.sll rd rs1 rs2) &&& 0xfe00707f#32 = 0x00001033#32
  exact mask_encoded _ _ _ _ _ _ _ _ rfl (masked_out _ _ rfl) (masked_out _ _ rfl) rfl (masked_out _ _ rfl) rfl rfl

theorem EncodesToRow.sllw (rd rs1 rs2 : Reg) : EncodesToRow.Statement (.sllw rd rs1 rs2) := by
  show encode (.sllw rd rs1 rs2) &&& 0xfe00707f#32 = 0x0000103b#32
  exact mask_encoded _ _ _ _ _ _ _ _ rfl (masked_out _ _ rfl) (masked_out _ _ rfl) rfl (masked_out _ _ rfl) rfl rfl

theorem EncodesToRow.slli (rd rs1 : Reg) (shamt : BitVec 6) : EncodesToRow.Statement (.slli rd rs1 shamt) := by
  show encode (.slli rd rs1 shamt) &&& 0xfc00707f#32 = 0x00001013#32
  exact mask_encoded _ _ _ _ _ _ _ _ (shift6_and _ _) (masked_out _ _ rfl) (masked_out _ _ rfl) rfl (masked_out _ _ rfl) rfl rfl

theorem EncodesToRow.slliw (rd rs1 : Reg) (shamt : BitVec 5) : EncodesToRow.Statement (.slliw rd rs1 shamt) := by
  show encode (.slliw rd rs1 shamt) &&& 0xfe00707f#32 = 0x0000101b#32
  exact mask_encoded _ _ _ _ _ _ _ _ rfl (masked_out _ _ rfl) (masked_out _ _ rfl) rfl (masked_out _ _ rfl) rfl rfl

theorem EncodesToRow.slt (rd rs1 rs2 : Reg) : EncodesToRow.Statement (.slt rd rs1 rs2) := by
  show encode (.slt rd rs1 rs2) &&& 0xfe00707f#32 = 0x00002033#32
  exact mask_encoded _ _ _ _ _ _ _ _ rfl (masked_out _ _ rfl) (masked_out _ _ rfl) rfl (masked_out _ _ rfl) rfl rfl

theorem EncodesToRow.slti (rd rs1 : Reg) (imm : BitVec 12) : EncodesToRow.Statement (.slti rd rs1 imm) := by
  show encode (.slti rd rs1 imm) &&& 0x0000707f#32 = 0x00002013#32
  exact mask_encoded _ _ _ _ _ _ _ _ (masked_out _ _ rfl) (masked_out _ _ rfl) (masked_out _ _ rfl) rfl (masked_out _ _ rfl) rfl rfl

theorem EncodesToRow.sltiu (rd rs1 : Reg) (imm : BitVec 12) : EncodesToRow.Statement (.sltiu rd rs1 imm) := by
  show encode (.sltiu rd rs1 imm) &&& 0x0000707f#32 = 0x00003013#32
  exact mask_encoded _ _ _ _ _ _ _ _ (masked_out _ _ rfl) (masked_out _ _ rfl) (masked_out _ _ rfl) rfl (masked_out _ _ rfl) rfl rfl

theorem EncodesToRow.sltu (rd rs1 rs2 : Reg) : EncodesToRow.Statement (.sltu rd rs1 rs2) := by
  show encode (.sltu rd rs1 rs2) &&& 0xfe00707f#32 = 0x00003033#32
  exact mask_encoded _ _ _ _ _ _ _ _ rfl (masked_out _ _ rfl) (masked_out _ _ rfl) rfl (masked_out _ _ rfl) rfl rfl

theorem EncodesToRow.sra (rd rs1 rs2 : Reg) : EncodesToRow.Statement (.sra rd rs1 rs2) := by
  show encode (.sra rd rs1 rs2) &&& 0xfe00707f#32 = 0x40005033#32
  exact mask_encoded _ _ _ _ _ _ _ _ rfl (masked_out _ _ rfl) (masked_out _ _ rfl) rfl (masked_out _ _ rfl) rfl rfl

theorem EncodesToRow.sraw (rd rs1 rs2 : Reg) : EncodesToRow.Statement (.sraw rd rs1 rs2) := by
  show encode (.sraw rd rs1 rs2) &&& 0xfe00707f#32 = 0x4000503b#32
  exact mask_encoded _ _ _ _ _ _ _ _ rfl (masked_out _ _ rfl) (masked_out _ _ rfl) rfl (masked_out _ _ rfl) rfl rfl

theorem EncodesToRow.srai (rd rs1 : Reg) (shamt : BitVec 6) : EncodesToRow.Statement (.srai rd rs1 shamt) := by
  show encode (.srai rd rs1 shamt) &&& 0xfc00707f#32 = 0x40005013#32
  exact mask_encoded _ _ _ _ _ _ _ _ (shift6_and _ _) (masked_out _ _ rfl) (masked_out _ _ rfl) rfl (masked_out _ _ rfl) rfl rfl

theorem EncodesToRow.sraiw (rd rs1 : Reg) (shamt : BitVec 5) : EncodesToRow.Statement (.sraiw rd rs1 shamt) := by
  show encode (.sraiw rd rs1 shamt) &&& 0xfe00707f#32 = 0x4000501b#32
  exact mask_encoded _ _ _ _ _ _ _ _ rfl (masked_out _ _ rfl) (masked_out _ _ rfl) rfl (masked_out _ _ rfl) rfl rfl

theorem EncodesToRow.srl (rd rs1 rs2 : Reg) : EncodesToRow.Statement (.srl rd rs1 rs2) := by
  show encode (.srl rd rs1 rs2) &&& 0xfe00707f#32 = 0x00005033#32
  exact mask_encoded _ _ _ _ _ _ _ _ rfl (masked_out _ _ rfl) (masked_out _ _ rfl) rfl (masked_out _ _ rfl) rfl rfl

theorem EncodesToRow.srlw (rd rs1 rs2 : Reg) : EncodesToRow.Statement (.srlw rd rs1 rs2) := by
  show encode (.srlw rd rs1 rs2) &&& 0xfe00707f#32 = 0x0000503b#32
  exact mask_encoded _ _ _ _ _ _ _ _ rfl (masked_out _ _ rfl) (masked_out _ _ rfl) rfl (masked_out _ _ rfl) rfl rfl

theorem EncodesToRow.srli (rd rs1 : Reg) (shamt : BitVec 6) : EncodesToRow.Statement (.srli rd rs1 shamt) := by
  show encode (.srli rd rs1 shamt) &&& 0xfc00707f#32 = 0x00005013#32
  exact mask_encoded _ _ _ _ _ _ _ _ (shift6_and _ _) (masked_out _ _ rfl) (masked_out _ _ rfl) rfl (masked_out _ _ rfl) rfl rfl

theorem EncodesToRow.srliw (rd rs1 : Reg) (shamt : BitVec 5) : EncodesToRow.Statement (.srliw rd rs1 shamt) := by
  show encode (.srliw rd rs1 shamt) &&& 0xfe00707f#32 = 0x0000501b#32
  exact mask_encoded _ _ _ _ _ _ _ _ rfl (masked_out _ _ rfl) (masked_out _ _ rfl) rfl (masked_out _ _ rfl) rfl rfl

theorem EncodesToRow.sub (rd rs1 rs2 : Reg) : EncodesToRow.Statement (.sub rd rs1 rs2) := by
  show encode (.sub rd rs1 rs2) &&& 0xfe00707f#32 = 0x40000033#32
  exact mask_encoded _ _ _ _ _ _ _ _ rfl (masked_out _ _ rfl) (masked_out _ _ rfl) rfl (masked_out _ _ rfl) rfl rfl

theorem EncodesToRow.subw (rd rs1 rs2 : Reg) : EncodesToRow.Statement (.subw rd rs1 rs2) := by
  show encode (.subw rd rs1 rs2) &&& 0xfe00707f#32 = 0x4000003b#32
  exact mask_encoded _ _ _ _ _ _ _ _ rfl (masked_out _ _ rfl) (masked_out _ _ rfl) rfl (masked_out _ _ rfl) rfl rfl

theorem EncodesToRow.xor (rd rs1 rs2 : Reg) : EncodesToRow.Statement (.xor rd rs1 rs2) := by
  show encode (.xor rd rs1 rs2) &&& 0xfe00707f#32 = 0x00004033#32
  exact mask_encoded _ _ _ _ _ _ _ _ rfl (masked_out _ _ rfl) (masked_out _ _ rfl) rfl (masked_out _ _ rfl) rfl rfl

theorem EncodesToRow.xori (rd rs1 : Reg) (imm : BitVec 12) : EncodesToRow.Statement (.xori rd rs1 imm) := by
  show encode (.xori rd rs1 imm) &&& 0x0000707f#32 = 0x00004013#32
  exact mask_encoded _ _ _ _ _ _ _ _ (masked_out _ _ rfl) (masked_out _ _ rfl) (masked_out _ _ rfl) rfl (masked_out _ _ rfl) rfl rfl

theorem EncodesToRow.beq (rs1 rs2 : Reg) (off : BitVec 13) : EncodesToRow.Statement (.beq rs1 rs2 off) := by
  show encode (.beq rs1 rs2 off) &&& 0x0000707f#32 = 0x00000063#32
  exact mask_encoded _ _ _ _ _ _ _ _ (masked_out _ _ rfl) (masked_out _ _ rfl) (masked_out _ _ rfl) rfl (masked_out _ _ rfl) rfl rfl

theorem EncodesToRow.bne (rs1 rs2 : Reg) (off : BitVec 13) : EncodesToRow.Statement (.bne rs1 rs2 off) := by
  show encode (.bne rs1 rs2 off) &&& 0x0000707f#32 = 0x00001063#32
  exact mask_encoded _ _ _ _ _ _ _ _ (masked_out _ _ rfl) (masked_out _ _ rfl) (masked_out _ _ rfl) rfl (masked_out _ _ rfl) rfl rfl

theorem EncodesToRow.blt (rs1 rs2 : Reg) (off : BitVec 13) : EncodesToRow.Statement (.blt rs1 rs2 off) := by
  show encode (.blt rs1 rs2 off) &&& 0x0000707f#32 = 0x00004063#32
  exact mask_encoded _ _ _ _ _ _ _ _ (masked_out _ _ rfl) (masked_out _ _ rfl) (masked_out _ _ rfl) rfl (masked_out _ _ rfl) rfl rfl

theorem EncodesToRow.bge (rs1 rs2 : Reg) (off : BitVec 13) : EncodesToRow.Statement (.bge rs1 rs2 off) := by
  show encode (.bge rs1 rs2 off) &&& 0x0000707f#32 = 0x00005063#32
  exact mask_encoded _ _ _ _ _ _ _ _ (masked_out _ _ rfl) (masked_out _ _ rfl) (masked_out _ _ rfl) rfl (masked_out _ _ rfl) rfl rfl

theorem EncodesToRow.bltu (rs1 rs2 : Reg) (off : BitVec 13) : EncodesToRow.Statement (.bltu rs1 rs2 off) := by
  show encode (.bltu rs1 rs2 off) &&& 0x0000707f#32 = 0x00006063#32
  exact mask_encoded _ _ _ _ _ _ _ _ (masked_out _ _ rfl) (masked_out _ _ rfl) (masked_out _ _ rfl) rfl (masked_out _ _ rfl) rfl rfl

theorem EncodesToRow.bgeu (rs1 rs2 : Reg) (off : BitVec 13) : EncodesToRow.Statement (.bgeu rs1 rs2 off) := by
  show encode (.bgeu rs1 rs2 off) &&& 0x0000707f#32 = 0x00007063#32
  exact mask_encoded _ _ _ _ _ _ _ _ (masked_out _ _ rfl) (masked_out _ _ rfl) (masked_out _ _ rfl) rfl (masked_out _ _ rfl) rfl rfl

theorem EncodesToRow.jal (rd : Reg) (off : BitVec 21) : EncodesToRow.Statement (.jal rd off) := by
  show encode (.jal rd off) &&& 0x0000007f#32 = 0x0000006f#32
  exact mask_encoded _ _ _ _ _ _ _ _ (masked_out _ _ rfl) (masked_out _ _ rfl) (masked_out _ _ rfl) (masked_out _ _ rfl) (masked_out _ _ rfl) rfl rfl

theorem EncodesToRow.jalr (rd rs1 : Reg) (imm : BitVec 12) : EncodesToRow.Statement (.jalr rd rs1 imm) := by
  show encode (.jalr rd rs1 imm) &&& 0x0000707f#32 = 0x00000067#32
  exact mask_encoded _ _ _ _ _ _ _ _ (masked_out _ _ rfl) (masked_out _ _ rfl) (masked_out _ _ rfl) rfl (masked_out _ _ rfl) rfl rfl

theorem EncodesToRow.lb (rd rs1 : Reg) (imm : BitVec 12) : EncodesToRow.Statement (.lb rd rs1 imm) := by
  show encode (.lb rd rs1 imm) &&& 0x0000707f#32 = 0x00000003#32
  exact mask_encoded _ _ _ _ _ _ _ _ (masked_out _ _ rfl) (masked_out _ _ rfl) (masked_out _ _ rfl) rfl (masked_out _ _ rfl) rfl rfl

theorem EncodesToRow.lbu (rd rs1 : Reg) (imm : BitVec 12) : EncodesToRow.Statement (.lbu rd rs1 imm) := by
  show encode (.lbu rd rs1 imm) &&& 0x0000707f#32 = 0x00004003#32
  exact mask_encoded _ _ _ _ _ _ _ _ (masked_out _ _ rfl) (masked_out _ _ rfl) (masked_out _ _ rfl) rfl (masked_out _ _ rfl) rfl rfl

theorem EncodesToRow.lh (rd rs1 : Reg) (imm : BitVec 12) : EncodesToRow.Statement (.lh rd rs1 imm) := by
  show encode (.lh rd rs1 imm) &&& 0x0000707f#32 = 0x00001003#32
  exact mask_encoded _ _ _ _ _ _ _ _ (masked_out _ _ rfl) (masked_out _ _ rfl) (masked_out _ _ rfl) rfl (masked_out _ _ rfl) rfl rfl

theorem EncodesToRow.lhu (rd rs1 : Reg) (imm : BitVec 12) : EncodesToRow.Statement (.lhu rd rs1 imm) := by
  show encode (.lhu rd rs1 imm) &&& 0x0000707f#32 = 0x00005003#32
  exact mask_encoded _ _ _ _ _ _ _ _ (masked_out _ _ rfl) (masked_out _ _ rfl) (masked_out _ _ rfl) rfl (masked_out _ _ rfl) rfl rfl

theorem EncodesToRow.lw (rd rs1 : Reg) (imm : BitVec 12) : EncodesToRow.Statement (.lw rd rs1 imm) := by
  show encode (.lw rd rs1 imm) &&& 0x0000707f#32 = 0x00002003#32
  exact mask_encoded _ _ _ _ _ _ _ _ (masked_out _ _ rfl) (masked_out _ _ rfl) (masked_out _ _ rfl) rfl (masked_out _ _ rfl) rfl rfl

theorem EncodesToRow.lwu (rd rs1 : Reg) (imm : BitVec 12) : EncodesToRow.Statement (.lwu rd rs1 imm) := by
  show encode (.lwu rd rs1 imm) &&& 0x0000707f#32 = 0x00006003#32
  exact mask_encoded _ _ _ _ _ _ _ _ (masked_out _ _ rfl) (masked_out _ _ rfl) (masked_out _ _ rfl) rfl (masked_out _ _ rfl) rfl rfl

theorem EncodesToRow.ld (rd rs1 : Reg) (imm : BitVec 12) : EncodesToRow.Statement (.ld rd rs1 imm) := by
  show encode (.ld rd rs1 imm) &&& 0x0000707f#32 = 0x00003003#32
  exact mask_encoded _ _ _ _ _ _ _ _ (masked_out _ _ rfl) (masked_out _ _ rfl) (masked_out _ _ rfl) rfl (masked_out _ _ rfl) rfl rfl

theorem EncodesToRow.sb (rs1 rs2 : Reg) (imm : BitVec 12) : EncodesToRow.Statement (.sb rs1 rs2 imm) := by
  show encode (.sb rs1 rs2 imm) &&& 0x0000707f#32 = 0x00000023#32
  exact mask_encoded _ _ _ _ _ _ _ _ (masked_out _ _ rfl) (masked_out _ _ rfl) (masked_out _ _ rfl) rfl (masked_out _ _ rfl) rfl rfl

theorem EncodesToRow.sh (rs1 rs2 : Reg) (imm : BitVec 12) : EncodesToRow.Statement (.sh rs1 rs2 imm) := by
  show encode (.sh rs1 rs2 imm) &&& 0x0000707f#32 = 0x00001023#32
  exact mask_encoded _ _ _ _ _ _ _ _ (masked_out _ _ rfl) (masked_out _ _ rfl) (masked_out _ _ rfl) rfl (masked_out _ _ rfl) rfl rfl

theorem EncodesToRow.sw (rs1 rs2 : Reg) (imm : BitVec 12) : EncodesToRow.Statement (.sw rs1 rs2 imm) := by
  show encode (.sw rs1 rs2 imm) &&& 0x0000707f#32 = 0x00002023#32
  exact mask_encoded _ _ _ _ _ _ _ _ (masked_out _ _ rfl) (masked_out _ _ rfl) (masked_out _ _ rfl) rfl (masked_out _ _ rfl) rfl rfl

theorem EncodesToRow.sd (rs1 rs2 : Reg) (imm : BitVec 12) : EncodesToRow.Statement (.sd rs1 rs2 imm) := by
  show encode (.sd rs1 rs2 imm) &&& 0x0000707f#32 = 0x00003023#32
  exact mask_encoded _ _ _ _ _ _ _ _ (masked_out _ _ rfl) (masked_out _ _ rfl) (masked_out _ _ rfl) rfl (masked_out _ _ rfl) rfl rfl

theorem EncodesToRow.csrrw (rd rs1 : Reg) (csr : BitVec 12) : EncodesToRow.Statement (.csrrw rd rs1 csr) := by
  show encode (.csrrw rd rs1 csr) &&& 0x0000707f#32 = 0x00001073#32
  exact mask_encoded _ _ _ _ _ _ _ _ (masked_out _ _ rfl) (masked_out _ _ rfl) (masked_out _ _ rfl) rfl (masked_out _ _ rfl) rfl rfl

theorem EncodesToRow.csrrs (rd rs1 : Reg) (csr : BitVec 12) : EncodesToRow.Statement (.csrrs rd rs1 csr) := by
  show encode (.csrrs rd rs1 csr) &&& 0x0000707f#32 = 0x00002073#32
  exact mask_encoded _ _ _ _ _ _ _ _ (masked_out _ _ rfl) (masked_out _ _ rfl) (masked_out _ _ rfl) rfl (masked_out _ _ rfl) rfl rfl

theorem EncodesToRow.csrrc (rd rs1 : Reg) (csr : BitVec 12) : EncodesToRow.Statement (.csrrc rd rs1 csr) := by
  show encode (.csrrc rd rs1 csr) &&& 0x0000707f#32 = 0x00003073#32
  exact mask_encoded _ _ _ _ _ _ _ _ (masked_out _ _ rfl) (masked_out _ _ rfl) (masked_out _ _ rfl) rfl (masked_out _ _ rfl) rfl rfl

theorem EncodesToRow.csrrwi (rd : Reg) (uimm : BitVec 5) (csr : BitVec 12) : EncodesToRow.Statement (.csrrwi rd uimm csr) := by
  show encode (.csrrwi rd uimm csr) &&& 0x0000707f#32 = 0x00005073#32
  exact mask_encoded _ _ _ _ _ _ _ _ (masked_out _ _ rfl) (masked_out _ _ rfl) (masked_out _ _ rfl) rfl (masked_out _ _ rfl) rfl rfl

theorem EncodesToRow.csrrsi (rd : Reg) (uimm : BitVec 5) (csr : BitVec 12) : EncodesToRow.Statement (.csrrsi rd uimm csr) := by
  show encode (.csrrsi rd uimm csr) &&& 0x0000707f#32 = 0x00006073#32
  exact mask_encoded _ _ _ _ _ _ _ _ (masked_out _ _ rfl) (masked_out _ _ rfl) (masked_out _ _ rfl) rfl (masked_out _ _ rfl) rfl rfl

theorem EncodesToRow.csrrci (rd : Reg) (uimm : BitVec 5) (csr : BitVec 12) : EncodesToRow.Statement (.csrrci rd uimm csr) := by
  show encode (.csrrci rd uimm csr) &&& 0x0000707f#32 = 0x00007073#32
  exact mask_encoded _ _ _ _ _ _ _ _ (masked_out _ _ rfl) (masked_out _ _ rfl) (masked_out _ _ rfl) rfl (masked_out _ _ rfl) rfl rfl

theorem EncodesToRow.ecall : EncodesToRow.Statement (.ecall) := by
  show encode (.ecall) &&& 0xffffffff#32 = 0x00000073#32
  decide

theorem EncodesToRow.ebreak : EncodesToRow.Statement (.ebreak) := by
  show encode (.ebreak) &&& 0xffffffff#32 = 0x00100073#32
  decide

theorem EncodesToRow.fence (fm pred succ : BitVec 4) (rs1 rd : Reg) : EncodesToRow.Statement (.fence fm pred succ rs1 rd) := by
  show encode (.fence fm pred succ rs1 rd) &&& 0x0000707f#32 = 0x0000000f#32
  exact mask_encoded _ _ _ _ _ _ _ _ (masked_out _ _ rfl) (masked_out _ _ rfl) (masked_out _ _ rfl) rfl (masked_out _ _ rfl) rfl rfl

theorem EncodesToRow.fenceI (imm : BitVec 12) (rs1 rd : Reg) : EncodesToRow.Statement (.fenceI imm rs1 rd) := by
  show encode (.fenceI imm rs1 rd) &&& 0x0000707f#32 = 0x0000100f#32
  exact mask_encoded _ _ _ _ _ _ _ _ (masked_out _ _ rfl) (masked_out _ _ rfl) (masked_out _ _ rfl) rfl (masked_out _ _ rfl) rfl rfl

theorem EncodesToRow.mul (rd rs1 rs2 : Reg) : EncodesToRow.Statement (.mul rd rs1 rs2) := by
  show encode (.mul rd rs1 rs2) &&& 0xfe00707f#32 = 0x02000033#32
  exact mask_encoded _ _ _ _ _ _ _ _ rfl (masked_out _ _ rfl) (masked_out _ _ rfl) rfl (masked_out _ _ rfl) rfl rfl

theorem EncodesToRow.mulw (rd rs1 rs2 : Reg) : EncodesToRow.Statement (.mulw rd rs1 rs2) := by
  show encode (.mulw rd rs1 rs2) &&& 0xfe00707f#32 = 0x0200003b#32
  exact mask_encoded _ _ _ _ _ _ _ _ rfl (masked_out _ _ rfl) (masked_out _ _ rfl) rfl (masked_out _ _ rfl) rfl rfl

theorem EncodesToRow.mulh (rd rs1 rs2 : Reg) : EncodesToRow.Statement (.mulh rd rs1 rs2) := by
  show encode (.mulh rd rs1 rs2) &&& 0xfe00707f#32 = 0x02001033#32
  exact mask_encoded _ _ _ _ _ _ _ _ rfl (masked_out _ _ rfl) (masked_out _ _ rfl) rfl (masked_out _ _ rfl) rfl rfl

theorem EncodesToRow.mulhu (rd rs1 rs2 : Reg) : EncodesToRow.Statement (.mulhu rd rs1 rs2) := by
  show encode (.mulhu rd rs1 rs2) &&& 0xfe00707f#32 = 0x02003033#32
  exact mask_encoded _ _ _ _ _ _ _ _ rfl (masked_out _ _ rfl) (masked_out _ _ rfl) rfl (masked_out _ _ rfl) rfl rfl

theorem EncodesToRow.mulhsu (rd rs1 rs2 : Reg) : EncodesToRow.Statement (.mulhsu rd rs1 rs2) := by
  show encode (.mulhsu rd rs1 rs2) &&& 0xfe00707f#32 = 0x02002033#32
  exact mask_encoded _ _ _ _ _ _ _ _ rfl (masked_out _ _ rfl) (masked_out _ _ rfl) rfl (masked_out _ _ rfl) rfl rfl

theorem EncodesToRow.div (rd rs1 rs2 : Reg) : EncodesToRow.Statement (.div rd rs1 rs2) := by
  show encode (.div rd rs1 rs2) &&& 0xfe00707f#32 = 0x02004033#32
  exact mask_encoded _ _ _ _ _ _ _ _ rfl (masked_out _ _ rfl) (masked_out _ _ rfl) rfl (masked_out _ _ rfl) rfl rfl

theorem EncodesToRow.divw (rd rs1 rs2 : Reg) : EncodesToRow.Statement (.divw rd rs1 rs2) := by
  show encode (.divw rd rs1 rs2) &&& 0xfe00707f#32 = 0x0200403b#32
  exact mask_encoded _ _ _ _ _ _ _ _ rfl (masked_out _ _ rfl) (masked_out _ _ rfl) rfl (masked_out _ _ rfl) rfl rfl

theorem EncodesToRow.divu (rd rs1 rs2 : Reg) : EncodesToRow.Statement (.divu rd rs1 rs2) := by
  show encode (.divu rd rs1 rs2) &&& 0xfe00707f#32 = 0x02005033#32
  exact mask_encoded _ _ _ _ _ _ _ _ rfl (masked_out _ _ rfl) (masked_out _ _ rfl) rfl (masked_out _ _ rfl) rfl rfl

theorem EncodesToRow.divuw (rd rs1 rs2 : Reg) : EncodesToRow.Statement (.divuw rd rs1 rs2) := by
  show encode (.divuw rd rs1 rs2) &&& 0xfe00707f#32 = 0x0200503b#32
  exact mask_encoded _ _ _ _ _ _ _ _ rfl (masked_out _ _ rfl) (masked_out _ _ rfl) rfl (masked_out _ _ rfl) rfl rfl

theorem EncodesToRow.rem (rd rs1 rs2 : Reg) : EncodesToRow.Statement (.rem rd rs1 rs2) := by
  show encode (.rem rd rs1 rs2) &&& 0xfe00707f#32 = 0x02006033#32
  exact mask_encoded _ _ _ _ _ _ _ _ rfl (masked_out _ _ rfl) (masked_out _ _ rfl) rfl (masked_out _ _ rfl) rfl rfl

theorem EncodesToRow.remw (rd rs1 rs2 : Reg) : EncodesToRow.Statement (.remw rd rs1 rs2) := by
  show encode (.remw rd rs1 rs2) &&& 0xfe00707f#32 = 0x0200603b#32
  exact mask_encoded _ _ _ _ _ _ _ _ rfl (masked_out _ _ rfl) (masked_out _ _ rfl) rfl (masked_out _ _ rfl) rfl rfl

theorem EncodesToRow.remu (rd rs1 rs2 : Reg) : EncodesToRow.Statement (.remu rd rs1 rs2) := by
  show encode (.remu rd rs1 rs2) &&& 0xfe00707f#32 = 0x02007033#32
  exact mask_encoded _ _ _ _ _ _ _ _ rfl (masked_out _ _ rfl) (masked_out _ _ rfl) rfl (masked_out _ _ rfl) rfl rfl

theorem EncodesToRow.remuw (rd rs1 rs2 : Reg) : EncodesToRow.Statement (.remuw rd rs1 rs2) := by
  show encode (.remuw rd rs1 rs2) &&& 0xfe00707f#32 = 0x0200703b#32
  exact mask_encoded _ _ _ _ _ _ _ _ rfl (masked_out _ _ rfl) (masked_out _ _ rfl) rfl (masked_out _ _ rfl) rfl rfl

theorem EncodesToRow.flw (rd rs1 : Reg) (imm : BitVec 12) : EncodesToRow.Statement (.flw rd rs1 imm) := by
  show encode (.flw rd rs1 imm) &&& 0x0000707f#32 = 0x00002007#32
  exact mask_encoded _ _ _ _ _ _ _ _ (masked_out _ _ rfl) (masked_out _ _ rfl) (masked_out _ _ rfl) rfl (masked_out _ _ rfl) rfl rfl

theorem EncodesToRow.fld (rd rs1 : Reg) (imm : BitVec 12) : EncodesToRow.Statement (.fld rd rs1 imm) := by
  show encode (.fld rd rs1 imm) &&& 0x0000707f#32 = 0x00003007#32
  exact mask_encoded _ _ _ _ _ _ _ _ (masked_out _ _ rfl) (masked_out _ _ rfl) (masked_out _ _ rfl) rfl (masked_out _ _ rfl) rfl rfl

theorem EncodesToRow.fsw (rs1 rs2 : Reg) (imm : BitVec 12) : EncodesToRow.Statement (.fsw rs1 rs2 imm) := by
  show encode (.fsw rs1 rs2 imm) &&& 0x0000707f#32 = 0x00002027#32
  exact mask_encoded _ _ _ _ _ _ _ _ (masked_out _ _ rfl) (masked_out _ _ rfl) (masked_out _ _ rfl) rfl (masked_out _ _ rfl) rfl rfl

theorem EncodesToRow.fsd (rs1 rs2 : Reg) (imm : BitVec 12) : EncodesToRow.Statement (.fsd rs1 rs2 imm) := by
  show encode (.fsd rs1 rs2 imm) &&& 0x0000707f#32 = 0x00003027#32
  exact mask_encoded _ _ _ _ _ _ _ _ (masked_out _ _ rfl) (masked_out _ _ rfl) (masked_out _ _ rfl) rfl (masked_out _ _ rfl) rfl rfl

theorem EncodesToRow.fsgnjS (rd rs1 rs2 : Reg) : EncodesToRow.Statement (.fsgnjS rd rs1 rs2) := by
  show encode (.fsgnjS rd rs1 rs2) &&& 0xfe00707f#32 = 0x20000053#32
  exact mask_encoded _ _ _ _ _ _ _ _ rfl (masked_out _ _ rfl) (masked_out _ _ rfl) rfl (masked_out _ _ rfl) rfl rfl

theorem EncodesToRow.fsgnjD (rd rs1 rs2 : Reg) : EncodesToRow.Statement (.fsgnjD rd rs1 rs2) := by
  show encode (.fsgnjD rd rs1 rs2) &&& 0xfe00707f#32 = 0x22000053#32
  exact mask_encoded _ _ _ _ _ _ _ _ rfl (masked_out _ _ rfl) (masked_out _ _ rfl) rfl (masked_out _ _ rfl) rfl rfl

theorem EncodesToRow.fsgnjnS (rd rs1 rs2 : Reg) : EncodesToRow.Statement (.fsgnjnS rd rs1 rs2) := by
  show encode (.fsgnjnS rd rs1 rs2) &&& 0xfe00707f#32 = 0x20001053#32
  exact mask_encoded _ _ _ _ _ _ _ _ rfl (masked_out _ _ rfl) (masked_out _ _ rfl) rfl (masked_out _ _ rfl) rfl rfl

theorem EncodesToRow.fsgnjnD (rd rs1 rs2 : Reg) : EncodesToRow.Statement (.fsgnjnD rd rs1 rs2) := by
  show encode (.fsgnjnD rd rs1 rs2) &&& 0xfe00707f#32 = 0x22001053#32
  exact mask_encoded _ _ _ _ _ _ _ _ rfl (masked_out _ _ rfl) (masked_out _ _ rfl) rfl (masked_out _ _ rfl) rfl rfl

theorem EncodesToRow.fsgnjxS (rd rs1 rs2 : Reg) : EncodesToRow.Statement (.fsgnjxS rd rs1 rs2) := by
  show encode (.fsgnjxS rd rs1 rs2) &&& 0xfe00707f#32 = 0x20002053#32
  exact mask_encoded _ _ _ _ _ _ _ _ rfl (masked_out _ _ rfl) (masked_out _ _ rfl) rfl (masked_out _ _ rfl) rfl rfl

theorem EncodesToRow.fsgnjxD (rd rs1 rs2 : Reg) : EncodesToRow.Statement (.fsgnjxD rd rs1 rs2) := by
  show encode (.fsgnjxD rd rs1 rs2) &&& 0xfe00707f#32 = 0x22002053#32
  exact mask_encoded _ _ _ _ _ _ _ _ rfl (masked_out _ _ rfl) (masked_out _ _ rfl) rfl (masked_out _ _ rfl) rfl rfl

theorem EncodesToRow.fminS (rd rs1 rs2 : Reg) : EncodesToRow.Statement (.fminS rd rs1 rs2) := by
  show encode (.fminS rd rs1 rs2) &&& 0xfe00707f#32 = 0x28000053#32
  exact mask_encoded _ _ _ _ _ _ _ _ rfl (masked_out _ _ rfl) (masked_out _ _ rfl) rfl (masked_out _ _ rfl) rfl rfl

theorem EncodesToRow.fminD (rd rs1 rs2 : Reg) : EncodesToRow.Statement (.fminD rd rs1 rs2) := by
  show encode (.fminD rd rs1 rs2) &&& 0xfe00707f#32 = 0x2a000053#32
  exact mask_encoded _ _ _ _ _ _ _ _ rfl (masked_out _ _ rfl) (masked_out _ _ rfl) rfl (masked_out _ _ rfl) rfl rfl

theorem EncodesToRow.fmaxS (rd rs1 rs2 : Reg) : EncodesToRow.Statement (.fmaxS rd rs1 rs2) := by
  show encode (.fmaxS rd rs1 rs2) &&& 0xfe00707f#32 = 0x28001053#32
  exact mask_encoded _ _ _ _ _ _ _ _ rfl (masked_out _ _ rfl) (masked_out _ _ rfl) rfl (masked_out _ _ rfl) rfl rfl

theorem EncodesToRow.fmaxD (rd rs1 rs2 : Reg) : EncodesToRow.Statement (.fmaxD rd rs1 rs2) := by
  show encode (.fmaxD rd rs1 rs2) &&& 0xfe00707f#32 = 0x2a001053#32
  exact mask_encoded _ _ _ _ _ _ _ _ rfl (masked_out _ _ rfl) (masked_out _ _ rfl) rfl (masked_out _ _ rfl) rfl rfl

theorem EncodesToRow.feqS (rd rs1 rs2 : Reg) : EncodesToRow.Statement (.feqS rd rs1 rs2) := by
  show encode (.feqS rd rs1 rs2) &&& 0xfe00707f#32 = 0xa0002053#32
  exact mask_encoded _ _ _ _ _ _ _ _ rfl (masked_out _ _ rfl) (masked_out _ _ rfl) rfl (masked_out _ _ rfl) rfl rfl

theorem EncodesToRow.feqD (rd rs1 rs2 : Reg) : EncodesToRow.Statement (.feqD rd rs1 rs2) := by
  show encode (.feqD rd rs1 rs2) &&& 0xfe00707f#32 = 0xa2002053#32
  exact mask_encoded _ _ _ _ _ _ _ _ rfl (masked_out _ _ rfl) (masked_out _ _ rfl) rfl (masked_out _ _ rfl) rfl rfl

theorem EncodesToRow.fltS (rd rs1 rs2 : Reg) : EncodesToRow.Statement (.fltS rd rs1 rs2) := by
  show encode (.fltS rd rs1 rs2) &&& 0xfe00707f#32 = 0xa0001053#32
  exact mask_encoded _ _ _ _ _ _ _ _ rfl (masked_out _ _ rfl) (masked_out _ _ rfl) rfl (masked_out _ _ rfl) rfl rfl

theorem EncodesToRow.fltD (rd rs1 rs2 : Reg) : EncodesToRow.Statement (.fltD rd rs1 rs2) := by
  show encode (.fltD rd rs1 rs2) &&& 0xfe00707f#32 = 0xa2001053#32
  exact mask_encoded _ _ _ _ _ _ _ _ rfl (masked_out _ _ rfl) (masked_out _ _ rfl) rfl (masked_out _ _ rfl) rfl rfl

theorem EncodesToRow.fleS (rd rs1 rs2 : Reg) : EncodesToRow.Statement (.fleS rd rs1 rs2) := by
  show encode (.fleS rd rs1 rs2) &&& 0xfe00707f#32 = 0xa0000053#32
  exact mask_encoded _ _ _ _ _ _ _ _ rfl (masked_out _ _ rfl) (masked_out _ _ rfl) rfl (masked_out _ _ rfl) rfl rfl

theorem EncodesToRow.fleD (rd rs1 rs2 : Reg) : EncodesToRow.Statement (.fleD rd rs1 rs2) := by
  show encode (.fleD rd rs1 rs2) &&& 0xfe00707f#32 = 0xa2000053#32
  exact mask_encoded _ _ _ _ _ _ _ _ rfl (masked_out _ _ rfl) (masked_out _ _ rfl) rfl (masked_out _ _ rfl) rfl rfl

theorem EncodesToRow.fclassS (rd rs1 : Reg) : EncodesToRow.Statement (.fclassS rd rs1) := by
  show encode (.fclassS rd rs1) &&& 0xfff0707f#32 = 0xe0001053#32
  exact mask_encoded _ _ _ _ _ _ _ _ rfl rfl (masked_out _ _ rfl) rfl (masked_out _ _ rfl) rfl rfl

theorem EncodesToRow.fclassD (rd rs1 : Reg) : EncodesToRow.Statement (.fclassD rd rs1) := by
  show encode (.fclassD rd rs1) &&& 0xfff0707f#32 = 0xe2001053#32
  exact mask_encoded _ _ _ _ _ _ _ _ rfl rfl (masked_out _ _ rfl) rfl (masked_out _ _ rfl) rfl rfl

theorem EncodesToRow.fmvSX (rd rs1 : Reg) : EncodesToRow.Statement (.fmvSX rd rs1) := by
  show encode (.fmvSX rd rs1) &&& 0xfff0707f#32 = 0xf0000053#32
  exact mask_encoded _ _ _ _ _ _ _ _ rfl rfl (masked_out _ _ rfl) rfl (masked_out _ _ rfl) rfl rfl

theorem EncodesToRow.fmvDX (rd rs1 : Reg) : EncodesToRow.Statement (.fmvDX rd rs1) := by
  show encode (.fmvDX rd rs1) &&& 0xfff0707f#32 = 0xf2000053#32
  exact mask_encoded _ _ _ _ _ _ _ _ rfl rfl (masked_out _ _ rfl) rfl (masked_out _ _ rfl) rfl rfl

theorem EncodesToRow.fmvXS (rd rs1 : Reg) : EncodesToRow.Statement (.fmvXS rd rs1) := by
  show encode (.fmvXS rd rs1) &&& 0xfff0707f#32 = 0xe0000053#32
  exact mask_encoded _ _ _ _ _ _ _ _ rfl rfl (masked_out _ _ rfl) rfl (masked_out _ _ rfl) rfl rfl

theorem EncodesToRow.fmvXD (rd rs1 : Reg) : EncodesToRow.Statement (.fmvXD rd rs1) := by
  show encode (.fmvXD rd rs1) &&& 0xfff0707f#32 = 0xe2000053#32
  exact mask_encoded _ _ _ _ _ _ _ _ rfl rfl (masked_out _ _ rfl) rfl (masked_out _ _ rfl) rfl rfl

theorem EncodesToRow.faddS (rd rs1 rs2 : Reg) (rm : BitVec 3) : EncodesToRow.Statement (.faddS rd rs1 rs2 rm) := by
  show encode (.faddS rd rs1 rs2 rm) &&& 0xfe00007f#32 = 0x00000053#32
  exact mask_encoded _ _ _ _ _ _ _ _ rfl (masked_out _ _ rfl) (masked_out _ _ rfl) (masked_out _ _ rfl) (masked_out _ _ rfl) rfl rfl

theorem EncodesToRow.faddD (rd rs1 rs2 : Reg) (rm : BitVec 3) : EncodesToRow.Statement (.faddD rd rs1 rs2 rm) := by
  show encode (.faddD rd rs1 rs2 rm) &&& 0xfe00007f#32 = 0x02000053#32
  exact mask_encoded _ _ _ _ _ _ _ _ rfl (masked_out _ _ rfl) (masked_out _ _ rfl) (masked_out _ _ rfl) (masked_out _ _ rfl) rfl rfl

theorem EncodesToRow.fsubS (rd rs1 rs2 : Reg) (rm : BitVec 3) : EncodesToRow.Statement (.fsubS rd rs1 rs2 rm) := by
  show encode (.fsubS rd rs1 rs2 rm) &&& 0xfe00007f#32 = 0x08000053#32
  exact mask_encoded _ _ _ _ _ _ _ _ rfl (masked_out _ _ rfl) (masked_out _ _ rfl) (masked_out _ _ rfl) (masked_out _ _ rfl) rfl rfl

theorem EncodesToRow.fsubD (rd rs1 rs2 : Reg) (rm : BitVec 3) : EncodesToRow.Statement (.fsubD rd rs1 rs2 rm) := by
  show encode (.fsubD rd rs1 rs2 rm) &&& 0xfe00007f#32 = 0x0a000053#32
  exact mask_encoded _ _ _ _ _ _ _ _ rfl (masked_out _ _ rfl) (masked_out _ _ rfl) (masked_out _ _ rfl) (masked_out _ _ rfl) rfl rfl

theorem EncodesToRow.fmulS (rd rs1 rs2 : Reg) (rm : BitVec 3) : EncodesToRow.Statement (.fmulS rd rs1 rs2 rm) := by
  show encode (.fmulS rd rs1 rs2 rm) &&& 0xfe00007f#32 = 0x10000053#32
  exact mask_encoded _ _ _ _ _ _ _ _ rfl (masked_out _ _ rfl) (masked_out _ _ rfl) (masked_out _ _ rfl) (masked_out _ _ rfl) rfl rfl

theorem EncodesToRow.fmulD (rd rs1 rs2 : Reg) (rm : BitVec 3) : EncodesToRow.Statement (.fmulD rd rs1 rs2 rm) := by
  show encode (.fmulD rd rs1 rs2 rm) &&& 0xfe00007f#32 = 0x12000053#32
  exact mask_encoded _ _ _ _ _ _ _ _ rfl (masked_out _ _ rfl) (masked_out _ _ rfl) (masked_out _ _ rfl) (masked_out _ _ rfl) rfl rfl

theorem EncodesToRow.fdivS (rd rs1 rs2 : Reg) (rm : BitVec 3) : EncodesToRow.Statement (.fdivS rd rs1 rs2 rm) := by
  show encode (.fdivS rd rs1 rs2 rm) &&& 0xfe00007f#32 = 0x18000053#32
  exact mask_encoded _ _ _ _ _ _ _ _ rfl (masked_out _ _ rfl) (masked_out _ _ rfl) (masked_out _ _ rfl) (masked_out _ _ rfl) rfl rfl

theorem EncodesToRow.fdivD (rd rs1 rs2 : Reg) (rm : BitVec 3) : EncodesToRow.Statement (.fdivD rd rs1 rs2 rm) := by
  show encode (.fdivD rd rs1 rs2 rm) &&& 0xfe00007f#32 = 0x1a000053#32
  exact mask_encoded _ _ _ _ _ _ _ _ rfl (masked_out _ _ rfl) (masked_out _ _ rfl) (masked_out _ _ rfl) (masked_out _ _ rfl) rfl rfl

theorem EncodesToRow.fsqrtS (rd rs1 : Reg) (rm : BitVec 3) : EncodesToRow.Statement (.fsqrtS rd rs1 rm) := by
  show encode (.fsqrtS rd rs1 rm) &&& 0xfff0007f#32 = 0x58000053#32
  exact mask_encoded _ _ _ _ _ _ _ _ rfl rfl (masked_out _ _ rfl) (masked_out _ _ rfl) (masked_out _ _ rfl) rfl rfl

theorem EncodesToRow.fsqrtD (rd rs1 : Reg) (rm : BitVec 3) : EncodesToRow.Statement (.fsqrtD rd rs1 rm) := by
  show encode (.fsqrtD rd rs1 rm) &&& 0xfff0007f#32 = 0x5a000053#32
  exact mask_encoded _ _ _ _ _ _ _ _ rfl rfl (masked_out _ _ rfl) (masked_out _ _ rfl) (masked_out _ _ rfl) rfl rfl

theorem EncodesToRow.fmaddS (rd rs1 rs2 rs3 : Reg) (rm : BitVec 3) : EncodesToRow.Statement (.fmaddS rd rs1 rs2 rs3 rm) := by
  show encode (.fmaddS rd rs1 rs2 rs3 rm) &&& 0x0600007f#32 = 0x00000043#32
  exact mask_encoded _ _ _ _ _ _ _ _ (r4_and _ _) (masked_out _ _ rfl) (masked_out _ _ rfl) (masked_out _ _ rfl) (masked_out _ _ rfl) rfl rfl

theorem EncodesToRow.fmaddD (rd rs1 rs2 rs3 : Reg) (rm : BitVec 3) : EncodesToRow.Statement (.fmaddD rd rs1 rs2 rs3 rm) := by
  show encode (.fmaddD rd rs1 rs2 rs3 rm) &&& 0x0600007f#32 = 0x02000043#32
  exact mask_encoded _ _ _ _ _ _ _ _ (r4_and _ _) (masked_out _ _ rfl) (masked_out _ _ rfl) (masked_out _ _ rfl) (masked_out _ _ rfl) rfl rfl

theorem EncodesToRow.fmsubS (rd rs1 rs2 rs3 : Reg) (rm : BitVec 3) : EncodesToRow.Statement (.fmsubS rd rs1 rs2 rs3 rm) := by
  show encode (.fmsubS rd rs1 rs2 rs3 rm) &&& 0x0600007f#32 = 0x00000047#32
  exact mask_encoded _ _ _ _ _ _ _ _ (r4_and _ _) (masked_out _ _ rfl) (masked_out _ _ rfl) (masked_out _ _ rfl) (masked_out _ _ rfl) rfl rfl

theorem EncodesToRow.fmsubD (rd rs1 rs2 rs3 : Reg) (rm : BitVec 3) : EncodesToRow.Statement (.fmsubD rd rs1 rs2 rs3 rm) := by
  show encode (.fmsubD rd rs1 rs2 rs3 rm) &&& 0x0600007f#32 = 0x02000047#32
  exact mask_encoded _ _ _ _ _ _ _ _ (r4_and _ _) (masked_out _ _ rfl) (masked_out _ _ rfl) (masked_out _ _ rfl) (masked_out _ _ rfl) rfl rfl

theorem EncodesToRow.fnmaddS (rd rs1 rs2 rs3 : Reg) (rm : BitVec 3) : EncodesToRow.Statement (.fnmaddS rd rs1 rs2 rs3 rm) := by
  show encode (.fnmaddS rd rs1 rs2 rs3 rm) &&& 0x0600007f#32 = 0x0000004f#32
  exact mask_encoded _ _ _ _ _ _ _ _ (r4_and _ _) (masked_out _ _ rfl) (masked_out _ _ rfl) (masked_out _ _ rfl) (masked_out _ _ rfl) rfl rfl

theorem EncodesToRow.fnmaddD (rd rs1 rs2 rs3 : Reg) (rm : BitVec 3) : EncodesToRow.Statement (.fnmaddD rd rs1 rs2 rs3 rm) := by
  show encode (.fnmaddD rd rs1 rs2 rs3 rm) &&& 0x0600007f#32 = 0x0200004f#32
  exact mask_encoded _ _ _ _ _ _ _ _ (r4_and _ _) (masked_out _ _ rfl) (masked_out _ _ rfl) (masked_out _ _ rfl) (masked_out _ _ rfl) rfl rfl

theorem EncodesToRow.fnmsubS (rd rs1 rs2 rs3 : Reg) (rm : BitVec 3) : EncodesToRow.Statement (.fnmsubS rd rs1 rs2 rs3 rm) := by
  show encode (.fnmsubS rd rs1 rs2 rs3 rm) &&& 0x0600007f#32 = 0x0000004b#32
  exact mask_encoded _ _ _ _ _ _ _ _ (r4_and _ _) (masked_out _ _ rfl) (masked_out _ _ rfl) (masked_out _ _ rfl) (masked_out _ _ rfl) rfl rfl

theorem EncodesToRow.fnmsubD (rd rs1 rs2 rs3 : Reg) (rm : BitVec 3) : EncodesToRow.Statement (.fnmsubD rd rs1 rs2 rs3 rm) := by
  show encode (.fnmsubD rd rs1 rs2 rs3 rm) &&& 0x0600007f#32 = 0x0200004b#32
  exact mask_encoded _ _ _ _ _ _ _ _ (r4_and _ _) (masked_out _ _ rfl) (masked_out _ _ rfl) (masked_out _ _ rfl) (masked_out _ _ rfl) rfl rfl

theorem EncodesToRow.fcvtSD (rd rs1 : Reg) (rm : BitVec 3) : EncodesToRow.Statement (.fcvtSD rd rs1 rm) := by
  show encode (.fcvtSD rd rs1 rm) &&& 0xfff0007f#32 = 0x40100053#32
  exact mask_encoded _ _ _ _ _ _ _ _ rfl rfl (masked_out _ _ rfl) (masked_out _ _ rfl) (masked_out _ _ rfl) rfl rfl

theorem EncodesToRow.fcvtDS (rd rs1 : Reg) (rm : BitVec 3) : EncodesToRow.Statement (.fcvtDS rd rs1 rm) := by
  show encode (.fcvtDS rd rs1 rm) &&& 0xfff0007f#32 = 0x42000053#32
  exact mask_encoded _ _ _ _ _ _ _ _ rfl rfl (masked_out _ _ rfl) (masked_out _ _ rfl) (masked_out _ _ rfl) rfl rfl

theorem EncodesToRow.fcvtSW (rd rs1 : Reg) (rm : BitVec 3) : EncodesToRow.Statement (.fcvtSW rd rs1 rm) := by
  show encode (.fcvtSW rd rs1 rm) &&& 0xfff0007f#32 = 0xd0000053#32
  exact mask_encoded _ _ _ _ _ _ _ _ rfl rfl (masked_out _ _ rfl) (masked_out _ _ rfl) (masked_out _ _ rfl) rfl rfl

theorem EncodesToRow.fcvtDW (rd rs1 : Reg) (rm : BitVec 3) : EncodesToRow.Statement (.fcvtDW rd rs1 rm) := by
  show encode (.fcvtDW rd rs1 rm) &&& 0xfff0007f#32 = 0xd2000053#32
  exact mask_encoded _ _ _ _ _ _ _ _ rfl rfl (masked_out _ _ rfl) (masked_out _ _ rfl) (masked_out _ _ rfl) rfl rfl

theorem EncodesToRow.fcvtSL (rd rs1 : Reg) (rm : BitVec 3) : EncodesToRow.Statement (.fcvtSL rd rs1 rm) := by
  show encode (.fcvtSL rd rs1 rm) &&& 0xfff0007f#32 = 0xd0200053#32
  exact mask_encoded _ _ _ _ _ _ _ _ rfl rfl (masked_out _ _ rfl) (masked_out _ _ rfl) (masked_out _ _ rfl) rfl rfl

theorem EncodesToRow.fcvtDL (rd rs1 : Reg) (rm : BitVec 3) : EncodesToRow.Statement (.fcvtDL rd rs1 rm) := by
  show encode (.fcvtDL rd rs1 rm) &&& 0xfff0007f#32 = 0xd2200053#32
  exact mask_encoded _ _ _ _ _ _ _ _ rfl rfl (masked_out _ _ rfl) (masked_out _ _ rfl) (masked_out _ _ rfl) rfl rfl

theorem EncodesToRow.fcvtSWu (rd rs1 : Reg) (rm : BitVec 3) : EncodesToRow.Statement (.fcvtSWu rd rs1 rm) := by
  show encode (.fcvtSWu rd rs1 rm) &&& 0xfff0007f#32 = 0xd0100053#32
  exact mask_encoded _ _ _ _ _ _ _ _ rfl rfl (masked_out _ _ rfl) (masked_out _ _ rfl) (masked_out _ _ rfl) rfl rfl

theorem EncodesToRow.fcvtDWu (rd rs1 : Reg) (rm : BitVec 3) : EncodesToRow.Statement (.fcvtDWu rd rs1 rm) := by
  show encode (.fcvtDWu rd rs1 rm) &&& 0xfff0007f#32 = 0xd2100053#32
  exact mask_encoded _ _ _ _ _ _ _ _ rfl rfl (masked_out _ _ rfl) (masked_out _ _ rfl) (masked_out _ _ rfl) rfl rfl

theorem EncodesToRow.fcvtSLu (rd rs1 : Reg) (rm : BitVec 3) : EncodesToRow.Statement (.fcvtSLu rd rs1 rm) := by
  show encode (.fcvtSLu rd rs1 rm) &&& 0xfff0007f#32 = 0xd0300053#32
  exact mask_encoded _ _ _ _ _ _ _ _ rfl rfl (masked_out _ _ rfl) (masked_out _ _ rfl) (masked_out _ _ rfl) rfl rfl

theorem EncodesToRow.fcvtDLu (rd rs1 : Reg) (rm : BitVec 3) : EncodesToRow.Statement (.fcvtDLu rd rs1 rm) := by
  show encode (.fcvtDLu rd rs1 rm) &&& 0xfff0007f#32 = 0xd2300053#32
  exact mask_encoded _ _ _ _ _ _ _ _ rfl rfl (masked_out _ _ rfl) (masked_out _ _ rfl) (masked_out _ _ rfl) rfl rfl

theorem EncodesToRow.fcvtWS (rd rs1 : Reg) (rm : BitVec 3) : EncodesToRow.Statement (.fcvtWS rd rs1 rm) := by
  show encode (.fcvtWS rd rs1 rm) &&& 0xfff0007f#32 = 0xc0000053#32
  exact mask_encoded _ _ _ _ _ _ _ _ rfl rfl (masked_out _ _ rfl) (masked_out _ _ rfl) (masked_out _ _ rfl) rfl rfl

theorem EncodesToRow.fcvtWD (rd rs1 : Reg) (rm : BitVec 3) : EncodesToRow.Statement (.fcvtWD rd rs1 rm) := by
  show encode (.fcvtWD rd rs1 rm) &&& 0xfff0007f#32 = 0xc2000053#32
  exact mask_encoded _ _ _ _ _ _ _ _ rfl rfl (masked_out _ _ rfl) (masked_out _ _ rfl) (masked_out _ _ rfl) rfl rfl

theorem EncodesToRow.fcvtLS (rd rs1 : Reg) (rm : BitVec 3) : EncodesToRow.Statement (.fcvtLS rd rs1 rm) := by
  show encode (.fcvtLS rd rs1 rm) &&& 0xfff0007f#32 = 0xc0200053#32
  exact mask_encoded _ _ _ _ _ _ _ _ rfl rfl (masked_out _ _ rfl) (masked_out _ _ rfl) (masked_out _ _ rfl) rfl rfl

theorem EncodesToRow.fcvtLD (rd rs1 : Reg) (rm : BitVec 3) : EncodesToRow.Statement (.fcvtLD rd rs1 rm) := by
  show encode (.fcvtLD rd rs1 rm) &&& 0xfff0007f#32 = 0xc2200053#32
  exact mask_encoded _ _ _ _ _ _ _ _ rfl rfl (masked_out _ _ rfl) (masked_out _ _ rfl) (masked_out _ _ rfl) rfl rfl

theorem EncodesToRow.fcvtWuS (rd rs1 : Reg) (rm : BitVec 3) : EncodesToRow.Statement (.fcvtWuS rd rs1 rm) := by
  show encode (.fcvtWuS rd rs1 rm) &&& 0xfff0007f#32 = 0xc0100053#32
  exact mask_encoded _ _ _ _ _ _ _ _ rfl rfl (masked_out _ _ rfl) (masked_out _ _ rfl) (masked_out _ _ rfl) rfl rfl

theorem EncodesToRow.fcvtWuD (rd rs1 : Reg) (rm : BitVec 3) : EncodesToRow.Statement (.fcvtWuD rd rs1 rm) := by
  show encode (.fcvtWuD rd rs1 rm) &&& 0xfff0007f#32 = 0xc2100053#32
  exact mask_encoded _ _ _ _ _ _ _ _ rfl rfl (masked_out _ _ rfl) (masked_out _ _ rfl) (masked_out _ _ rfl) rfl rfl

theorem EncodesToRow.fcvtLuS (rd rs1 : Reg) (rm : BitVec 3) : EncodesToRow.Statement (.fcvtLuS rd rs1 rm) := by
  show encode (.fcvtLuS rd rs1 rm) &&& 0xfff0007f#32 = 0xc0300053#32
  exact mask_encoded _ _ _ _ _ _ _ _ rfl rfl (masked_out _ _ rfl) (masked_out _ _ rfl) (masked_out _ _ rfl) rfl rfl

theorem EncodesToRow.fcvtLuD (rd rs1 : Reg) (rm : BitVec 3) : EncodesToRow.Statement (.fcvtLuD rd rs1 rm) := by
  show encode (.fcvtLuD rd rs1 rm) &&& 0xfff0007f#32 = 0xc2300053#32
  exact mask_encoded _ _ _ _ _ _ _ _ rfl rfl (masked_out _ _ rfl) (masked_out _ _ rfl) (masked_out _ _ rfl) rfl rfl

theorem EncodesToRow.amoaddW (rd rs1 rs2 : Reg) (aq rl : Bool) : EncodesToRow.Statement (.amoaddW rd rs1 rs2 aq rl) := by
  show encode (.amoaddW rd rs1 rs2 aq rl) &&& 0xf800707f#32 = 0x0000202f#32
  exact mask_encoded _ _ _ _ _ _ _ _ (amo_and _ _ _) (masked_out _ _ rfl) (masked_out _ _ rfl) rfl (masked_out _ _ rfl) rfl rfl

theorem EncodesToRow.amoaddD (rd rs1 rs2 : Reg) (aq rl : Bool) : EncodesToRow.Statement (.amoaddD rd rs1 rs2 aq rl) := by
  show encode (.amoaddD rd rs1 rs2 aq rl) &&& 0xf800707f#32 = 0x0000302f#32
  exact mask_encoded _ _ _ _ _ _ _ _ (amo_and _ _ _) (masked_out _ _ rfl) (masked_out _ _ rfl) rfl (masked_out _ _ rfl) rfl rfl

theorem EncodesToRow.amoandW (rd rs1 rs2 : Reg) (aq rl : Bool) : EncodesToRow.Statement (.amoandW rd rs1 rs2 aq rl) := by
  show encode (.amoandW rd rs1 rs2 aq rl) &&& 0xf800707f#32 = 0x6000202f#32
  exact mask_encoded _ _ _ _ _ _ _ _ (amo_and _ _ _) (masked_out _ _ rfl) (masked_out _ _ rfl) rfl (masked_out _ _ rfl) rfl rfl

theorem EncodesToRow.amoandD (rd rs1 rs2 : Reg) (aq rl : Bool) : EncodesToRow.Statement (.amoandD rd rs1 rs2 aq rl) := by
  show encode (.amoandD rd rs1 rs2 aq rl) &&& 0xf800707f#32 = 0x6000302f#32
  exact mask_encoded _ _ _ _ _ _ _ _ (amo_and _ _ _) (masked_out _ _ rfl) (masked_out _ _ rfl) rfl (masked_out _ _ rfl) rfl rfl

theorem EncodesToRow.amomaxW (rd rs1 rs2 : Reg) (aq rl : Bool) : EncodesToRow.Statement (.amomaxW rd rs1 rs2 aq rl) := by
  show encode (.amomaxW rd rs1 rs2 aq rl) &&& 0xf800707f#32 = 0xa000202f#32
  exact mask_encoded _ _ _ _ _ _ _ _ (amo_and _ _ _) (masked_out _ _ rfl) (masked_out _ _ rfl) rfl (masked_out _ _ rfl) rfl rfl

theorem EncodesToRow.amomaxD (rd rs1 rs2 : Reg) (aq rl : Bool) : EncodesToRow.Statement (.amomaxD rd rs1 rs2 aq rl) := by
  show encode (.amomaxD rd rs1 rs2 aq rl) &&& 0xf800707f#32 = 0xa000302f#32
  exact mask_encoded _ _ _ _ _ _ _ _ (amo_and _ _ _) (masked_out _ _ rfl) (masked_out _ _ rfl) rfl (masked_out _ _ rfl) rfl rfl

theorem EncodesToRow.amomaxuW (rd rs1 rs2 : Reg) (aq rl : Bool) : EncodesToRow.Statement (.amomaxuW rd rs1 rs2 aq rl) := by
  show encode (.amomaxuW rd rs1 rs2 aq rl) &&& 0xf800707f#32 = 0xe000202f#32
  exact mask_encoded _ _ _ _ _ _ _ _ (amo_and _ _ _) (masked_out _ _ rfl) (masked_out _ _ rfl) rfl (masked_out _ _ rfl) rfl rfl

theorem EncodesToRow.amomaxuD (rd rs1 rs2 : Reg) (aq rl : Bool) : EncodesToRow.Statement (.amomaxuD rd rs1 rs2 aq rl) := by
  show encode (.amomaxuD rd rs1 rs2 aq rl) &&& 0xf800707f#32 = 0xe000302f#32
  exact mask_encoded _ _ _ _ _ _ _ _ (amo_and _ _ _) (masked_out _ _ rfl) (masked_out _ _ rfl) rfl (masked_out _ _ rfl) rfl rfl

theorem EncodesToRow.amominW (rd rs1 rs2 : Reg) (aq rl : Bool) : EncodesToRow.Statement (.amominW rd rs1 rs2 aq rl) := by
  show encode (.amominW rd rs1 rs2 aq rl) &&& 0xf800707f#32 = 0x8000202f#32
  exact mask_encoded _ _ _ _ _ _ _ _ (amo_and _ _ _) (masked_out _ _ rfl) (masked_out _ _ rfl) rfl (masked_out _ _ rfl) rfl rfl

theorem EncodesToRow.amominD (rd rs1 rs2 : Reg) (aq rl : Bool) : EncodesToRow.Statement (.amominD rd rs1 rs2 aq rl) := by
  show encode (.amominD rd rs1 rs2 aq rl) &&& 0xf800707f#32 = 0x8000302f#32
  exact mask_encoded _ _ _ _ _ _ _ _ (amo_and _ _ _) (masked_out _ _ rfl) (masked_out _ _ rfl) rfl (masked_out _ _ rfl) rfl rfl

theorem EncodesToRow.amominuW (rd rs1 rs2 : Reg) (aq rl : Bool) : EncodesToRow.Statement (.amominuW rd rs1 rs2 aq rl) := by
  show encode (.amominuW rd rs1 rs2 aq rl) &&& 0xf800707f#32 = 0xc000202f#32
  exact mask_encoded _ _ _ _ _ _ _ _ (amo_and _ _ _) (masked_out _ _ rfl) (masked_out _ _ rfl) rfl (masked_out _ _ rfl) rfl rfl

theorem EncodesToRow.amominuD (rd rs1 rs2 : Reg) (aq rl : Bool) : EncodesToRow.Statement (.amominuD rd rs1 rs2 aq rl) := by
  show encode (.amominuD rd rs1 rs2 aq rl) &&& 0xf800707f#32 = 0xc000302f#32
  exact mask_encoded _ _ _ _ _ _ _ _ (amo_and _ _ _) (masked_out _ _ rfl) (masked_out _ _ rfl) rfl (masked_out _ _ rfl) rfl rfl

theorem EncodesToRow.amoorW (rd rs1 rs2 : Reg) (aq rl : Bool) : EncodesToRow.Statement (.amoorW rd rs1 rs2 aq rl) := by
  show encode (.amoorW rd rs1 rs2 aq rl) &&& 0xf800707f#32 = 0x4000202f#32
  exact mask_encoded _ _ _ _ _ _ _ _ (amo_and _ _ _) (masked_out _ _ rfl) (masked_out _ _ rfl) rfl (masked_out _ _ rfl) rfl rfl

theorem EncodesToRow.amoorD (rd rs1 rs2 : Reg) (aq rl : Bool) : EncodesToRow.Statement (.amoorD rd rs1 rs2 aq rl) := by
  show encode (.amoorD rd rs1 rs2 aq rl) &&& 0xf800707f#32 = 0x4000302f#32
  exact mask_encoded _ _ _ _ _ _ _ _ (amo_and _ _ _) (masked_out _ _ rfl) (masked_out _ _ rfl) rfl (masked_out _ _ rfl) rfl rfl

theorem EncodesToRow.amoswapW (rd rs1 rs2 : Reg) (aq rl : Bool) : EncodesToRow.Statement (.amoswapW rd rs1 rs2 aq rl) := by
  show encode (.amoswapW rd rs1 rs2 aq rl) &&& 0xf800707f#32 = 0x0800202f#32
  exact mask_encoded _ _ _ _ _ _ _ _ (amo_and _ _ _) (masked_out _ _ rfl) (masked_out _ _ rfl) rfl (masked_out _ _ rfl) rfl rfl

theorem EncodesToRow.amoswapD (rd rs1 rs2 : Reg) (aq rl : Bool) : EncodesToRow.Statement (.amoswapD rd rs1 rs2 aq rl) := by
  show encode (.amoswapD rd rs1 rs2 aq rl) &&& 0xf800707f#32 = 0x0800302f#32
  exact mask_encoded _ _ _ _ _ _ _ _ (amo_and _ _ _) (masked_out _ _ rfl) (masked_out _ _ rfl) rfl (masked_out _ _ rfl) rfl rfl

theorem EncodesToRow.amoxorW (rd rs1 rs2 : Reg) (aq rl : Bool) : EncodesToRow.Statement (.amoxorW rd rs1 rs2 aq rl) := by
  show encode (.amoxorW rd rs1 rs2 aq rl) &&& 0xf800707f#32 = 0x2000202f#32
  exact mask_encoded _ _ _ _ _ _ _ _ (amo_and _ _ _) (masked_out _ _ rfl) (masked_out _ _ rfl) rfl (masked_out _ _ rfl) rfl rfl

theorem EncodesToRow.amoxorD (rd rs1 rs2 : Reg) (aq rl : Bool) : EncodesToRow.Statement (.amoxorD rd rs1 rs2 aq rl) := by
  show encode (.amoxorD rd rs1 rs2 aq rl) &&& 0xf800707f#32 = 0x2000302f#32
  exact mask_encoded _ _ _ _ _ _ _ _ (amo_and _ _ _) (masked_out _ _ rfl) (masked_out _ _ rfl) rfl (masked_out _ _ rfl) rfl rfl

theorem EncodesToRow.lrW (rd rs1 : Reg) (aq rl : Bool) : EncodesToRow.Statement (.lrW rd rs1 aq rl) := by
  show encode (.lrW rd rs1 aq rl) &&& 0xf9f0707f#32 = 0x1000202f#32
  exact mask_encoded _ _ _ _ _ _ _ _ (amo_and _ _ _) rfl (masked_out _ _ rfl) rfl (masked_out _ _ rfl) rfl rfl

theorem EncodesToRow.lrD (rd rs1 : Reg) (aq rl : Bool) : EncodesToRow.Statement (.lrD rd rs1 aq rl) := by
  show encode (.lrD rd rs1 aq rl) &&& 0xf9f0707f#32 = 0x1000302f#32
  exact mask_encoded _ _ _ _ _ _ _ _ (amo_and _ _ _) rfl (masked_out _ _ rfl) rfl (masked_out _ _ rfl) rfl rfl

theorem EncodesToRow.scW (rd rs1 rs2 : Reg) (aq rl : Bool) : EncodesToRow.Statement (.scW rd rs1 rs2 aq rl) := by
  show encode (.scW rd rs1 rs2 aq rl) &&& 0xf800707f#32 = 0x1800202f#32
  exact mask_encoded _ _ _ _ _ _ _ _ (amo_and _ _ _) (masked_out _ _ rfl) (masked_out _ _ rfl) rfl (masked_out _ _ rfl) rfl rfl

theorem EncodesToRow.scD (rd rs1 rs2 : Reg) (aq rl : Bool) : EncodesToRow.Statement (.scD rd rs1 rs2 aq rl) := by
  show encode (.scD rd rs1 rs2 aq rl) &&& 0xf800707f#32 = 0x1800302f#32
  exact mask_encoded _ _ _ _ _ _ _ _ (amo_and _ _ _) (masked_out _ _ rfl) (masked_out _ _ rfl) rfl (masked_out _ _ rfl) rfl rfl

end Sys2Proof.Laws
end

