-- ==== Sys2Proof/Machine/Run.lean ====
section
/-! DEFINITION. Running for a number of steps: how a run ends (70_reset_and_hazards.md R450, 60_exceptions.md R400). -/

namespace Sys2Proof.Machine

/-- The trap record `(E, info, state)` (R400); `info` is `Exception.info` of the exception (R402). -/
structure TrapRecord where
  /-- The exception, with the value it records. -/
  exception : Exception
  /-- The state just before the raising instruction, but for the cleared reservation; its `pc` is the address of that
  instruction. -/
  state : State
  deriving DecidableEq, Repr

/-- The trap record that a state holds for the exception `e`: the rest of the state is the record's state component. -/
def State.trapRecord (s : State) (e : Exception) : TrapRecord := ⟨e, { s with trap := none }⟩

/-- What a run of `n` steps answers (R450). -/
inductive RunEnd where
  /-- Still running: the state after the `n` steps. -/
  | running (s : State)
  /-- The run ended in a trap. -/
  | trapped (r : TrapRecord)
  /-- The model itself stopped, for a reason that is not the hardware's (`Fault.noValue`, `Fault.misalignedPc`); safe. -/
  | stopped (f : Fault)
  /-- An instruction without a meaning; no instruction is one. -/
  | refused (r : Refusal)
  deriving DecidableEq, Repr

/-- What becomes of a state before its next step: a hart that runs goes on; a trap record goes to the environment, which ends
the run or supplies the state to resume from (R400). Resuming is no step. -/
def State.settle (env : EnvTrap) (s : State) : RunEnd :=
  match s.trap with
  | none => .running s
  | some e =>
    match env e s with
    | none => .trapped (s.trapRecord e)
    | some t => .running (s.resumed t)

/-- Run for `n` steps, one per instruction (R449), under an environment. -/
def runUnder (env : EnvTrap) : Nat → State → RunEnd
  | 0, s => s.settle env
  | n + 1, s =>
    match s.settle env with
    | .running u =>
      match hartStep u with
      | .next t => runUnder env n t
      | .fault f => .stopped f
      | .refused r => .refused r
    | .trapped r => .trapped r
    | .stopped f => .stopped f
    | .refused r => .refused r

/-- Run for `n` steps under the default EnvTrap: the state after them, or the trap record that ended the run (R450). -/
def runFor (n : Nat) (s : State) : RunEnd := runUnder haltOnTrap n s

end Sys2Proof.Machine
end

