-- ==== Sys2Proof/Laws/Run.lean ====
section
/-! SUPPORT. The laws of running for a number of steps (R450): one step of a run, the trap that ends it, runs put together. -/

namespace Sys2Proof.Machine

-- ==== A state before its next step ====

/-- A hart that runs goes on, whatever the environment. -/
theorem State.settle_running {s : State} (env : EnvTrap) (h : s.trap = none) : s.settle env = .running s := by
  rw [State.settle, h]

/-- The default environment ends the run at a trap record. -/
theorem State.settle_trapped {s : State} {e : Exception} (h : s.trap = some e) :
    s.settle haltOnTrap = .trapped (s.trapRecord e) := by
  rw [State.settle, h]
  rfl

/-- A record holds the state before the instruction that raised, without its reservation. -/
theorem State.trapRecord_withTrap {s : State} (e e' : Exception) (h : s.trap = none) :
    (s.withTrap e).trapRecord e' = ⟨e', { s with resv := none }⟩ := by
  cases s
  simp_all [State.trapRecord, State.withTrap]

-- ==== One step of a run ====

/-- The first step of a run of a hart that runs is the step of the machine. -/
theorem runFor_succ {s : State} (n : Nat) (h : s.trap = none) :
    runFor (n + 1) s = match step s with
      | .next t => runFor n t
      | .fault f => .stopped f
      | .refused r => .refused r := by
  have hs : step s = hartStep s := by rw [step, stepUnder, h]
  rw [runFor, runUnder, State.settle_running _ h, hs]
  rfl

/-- A run of no steps from a hart that runs is that hart. -/
theorem runFor_zero {s : State} (h : s.trap = none) : runFor 0 s = .running s := by
  rw [runFor, runUnder, State.settle_running _ h]

/-- A run from a trap record has ended, however many steps are left. -/
theorem runFor_of_trap {s : State} {e : Exception} (h : s.trap = some e) (n : Nat) :
    runFor n s = .trapped (s.trapRecord e) := by
  cases n <;> simp only [runFor, runUnder, State.settle_trapped h]

/-- A step that raises ends the run: the record names the exception and holds the state before the step, without its
reservation. -/
theorem runFor_of_raises {s : State} {e : Exception} (n : Nat) (h : s.trap = none) (hs : step s = .next (s.withTrap e)) :
    runFor (n + 1) s = .trapped ⟨e, { s with resv := none }⟩ := by
  rw [runFor_succ n h, hs, ← State.trapRecord_withTrap e e h]
  exact runFor_of_trap rfl n

/-- An instruction that jumps to itself loops for ever. -/
theorem runFor_of_loop {s : State} (h : s.trap = none) (hs : step s = .next s) (n : Nat) : runFor n s = .running s := by
  induction n with
  | zero => exact runFor_zero h
  | succ n ih =>
    rw [runFor_succ n h, hs]
    exact ih

-- ==== Runs put together ====

/-- A state a run answers holds no trap record: a trap is answered as a record. -/
theorem runUnder_running_trap {env : EnvTrap} {n : Nat} {s t : State} (h : runUnder env n s = .running t) :
    t.trap = none := by
  have settled : ∀ u : State, u.settle env = .running t → t.trap = none := by
    intro u hu
    unfold State.settle at hu
    split at hu
    · cases hu
      assumption
    · split at hu
      · cases hu
      · cases hu
        rfl
  induction n generalizing s with
  | zero => exact settled s h
  | succ n ih =>
    rw [runUnder] at h
    split at h
    · split at h
      · exact ih h
      · cases h
      · cases h
    all_goals cases h

/-- A run of `m + n` steps is a run of `m` steps and, if the hart still runs, one of `n` steps from there. -/
theorem runFor_add (m n : Nat) (s : State) :
    runFor (m + n) s = match runFor m s with
      | .running t => runFor n t
      | .trapped r => .trapped r
      | .stopped f => .stopped f
      | .refused r => .refused r := by
  induction m generalizing s with
  | zero =>
    cases h : s.trap with
    | none => rw [runFor_zero h, Nat.zero_add]
    | some e => simp only [runFor_of_trap h]
  | succ m ih =>
    cases h : s.trap with
    | none =>
      rw [Nat.succ_add, runFor_succ _ h, runFor_succ _ h]
      cases step s with
      | next t => exact ih t
      | fault f => rfl
      | refused r => rfl
    | some e => simp only [runFor_of_trap h]

end Sys2Proof.Machine
end

