-- ==== Sys2Proof/Tests/Slice0.lean ====
section
/-! SUPPORT. Tests: decoding words written out from the encodings of the spec, refusing ill-formed terms, one step of each
instruction on a vector of the spec (96 to 99), and a state that meets the hypotheses of each statement.

The expected results are those of the spec's vectors, whose identifiers stand above the theorems. -/

namespace Sys2Proof.Tests.Slice0

open Sys2Proof Sys2Proof.Machine

set_option maxRecDepth 20000
set_option exponentiation.threshold 3000

-- ==== Helpers ====

/-- The map of the spec's test vectors: code, data, and read-only data. -/
def vectorMap : List Region :=
  [⟨0x1000, 0x1000, true, true, true⟩, ⟨0x2000, 0x1000, true, true, false⟩, ⟨0x3000, 0x1000, true, false, false⟩]

/-- Bytes from an address on. -/
def bytesAt (a : Nat) : List Byte → Memory
  | [] => []
  | b :: bs => (a, b) :: bytesAt (a + 1) bs

/-- The data of the integer vectors (96_test_vectors_integer.md). -/
def dataInt : Memory :=
  bytesAt 0x2000 [0x11, 0x22, 0x33, 0x44, 0x55, 0x66, 0x77, 0x88, 0x80, 0x32, 0x54, 0x76, 0x98, 0xBA, 0xDC, 0xFE]

/-- The data of the atomic vectors (section V47). -/
def dataAtomic : Memory := bytesAt 0x2000 [5, 0, 0, 0x80, 0xFF, 0xFF, 0xFF, 0xFF]

/-- The data of the floating-point load and store vectors (section V45). -/
def dataFloat : Memory := bytesAt 0x2000 [0x18, 0x2D, 0x44, 0x54, 0xFB, 0x21, 0x09, 0x40, 0xDB, 0x0F, 0x49, 0x40, 0, 0, 0x80, 0xBF]

/-- A hart about to fetch the word `w` at 0x1000, with the given registers and data. -/
def hart (m : Memory) (w : Nat) (xs fs : List (Reg × Dword)) : State :=
  let s : State := { State.reset with pc := 0x1000, mem := m, params := ⟨vectorMap, false, false⟩ }
  let s := xs.foldl (fun s p => s.writeX p.1 p.2) s
  (fs.foldl (fun s p => s.writeF p.1 p.2) s).withFetchWord 32 w

/-- The next state is there and has the property. -/
def ends (s : State) (p : State → Bool) : Bool :=
  match step s with
  | .next t => p t
  | .fault _ => false
  | .refused _ => false

/-- Each word decodes to its instruction. -/
def decodesAll (l : List (Nat × Instr)) : Bool := l.all fun p => decodeTableWord 32 p.1 == some p.2

-- ==== Decoding: one word for each row of the opcode table, its fields in groups, from the encodings of 30_encoding.md ====

/-- RV64I integer computational (40_integer_computational.md). -/
theorem test_decode_integerComputational : decodesAll
    [(0b0000000_01101_00101_000_01011_0110011, .add 11 5 13),
      (0b0000000_10010_11011_000_00011_0111011, .addw 3 27 18),
      (0b0000100_11001_00010_000_10011_0010011, .addi 19 2 0x099),
      (0b0000111_10010_01110_000_00011_0011011, .addiw 3 14 0x0F2),
      (0b0000000_00100_10011_111_11011_0110011, .and 27 19 4),
      (0b1111100_11110_10011_111_10101_0010011, .andi 21 19 0xF9E),
      (0b0100101_00010_00111_101_01000_0010111, .auipc 8 0x4A23D),
      (0b0100111_01111_10001_010_01110_0110111, .lui 14 0x4EF8A),
      (0b0000000_10110_11011_110_10010_0110011, .or 18 27 22),
      (0b1000110_00011_10101_110_10011_0010011, .ori 19 21 0x8C3),
      (0b0000000_10011_00011_001_10111_0110011, .sll 23 3 19),
      (0b0000000_10110_10000_001_00111_0111011, .sllw 7 16 22),
      (0b000000_1_10111_01011_001_11001_0010011, .slli 25 11 55),
      (0b0000000_11000_01000_001_01010_0011011, .slliw 10 8 24),
      (0b0000000_10011_00011_010_01000_0110011, .slt 8 3 19),
      (0b0100100_11011_11101_010_10000_0010011, .slti 16 29 0x49B),
      (0b0010101_00011_00011_011_10100_0010011, .sltiu 20 3 0x2A3),
      (0b0000000_00101_01011_011_11001_0110011, .sltu 25 11 5),
      (0b0100000_10110_00010_101_01110_0110011, .sra 14 2 22),
      (0b0100000_11101_11010_101_10011_0111011, .sraw 19 26 29),
      (0b010000_1_00101_10111_101_01011_0010011, .srai 11 23 37),
      (0b0100000_11110_01111_101_11010_0011011, .sraiw 26 15 30),
      (0b0000000_10111_10000_101_01001_0110011, .srl 9 16 23),
      (0b0000000_10111_11000_101_00010_0111011, .srlw 2 24 23),
      (0b000000_1_01101_10110_101_10011_0010011, .srli 19 22 45),
      (0b0000000_11110_11101_101_01101_0011011, .srliw 13 29 30),
      (0b0100000_00110_01100_000_01111_0110011, .sub 15 12 6),
      (0b0100000_00111_00010_000_10000_0111011, .subw 16 2 7),
      (0b0000000_01000_11000_100_00101_0110011, .xor 5 24 8),
      (0b0111001_01111_11100_100_11110_0010011, .xori 30 28 0x72F)] := by decide

/-- RV64I control transfer (41_control_transfer.md). -/
theorem test_decode_controlTransfer : decodesAll
    [(0b1010001_01001_10010_000_10111_1100011, .beq 18 9 0x1A36),
      (0b0101010_10010_11100_001_01011_1100011, .bne 28 18 0x0D4A),
      (0b0100110_11101_10110_100_10100_1100011, .blt 22 29 0x04D4),
      (0b0111011_00101_00110_101_10110_1100011, .bge 6 5 0x0776),
      (0b0000011_11011_10000_110_01001_1100011, .bltu 16 27 0x0868),
      (0b0011110_00101_00001_111_10001_1100011, .bgeu 1 5 0x0BD0),
      (0b1110100_10101_10110_111_10100_1101111, .jal 20 0x1B7E94),
      (0b0000110_11101_10100_000_10001_1100111, .jalr 17 20 0x0DD)] := by decide

/-- RV64I loads and stores (42_load_store.md). -/
theorem test_decode_loadStore : decodesAll
    [(0b1100110_00100_11101_000_01111_0000011, .lb 15 29 0xCC4),
      (0b0110011_01000_01101_100_10010_0000011, .lbu 18 13 0x668),
      (0b0001110_00010_00111_001_00010_0000011, .lh 2 7 0x1C2),
      (0b1001000_10001_10100_101_01011_0000011, .lhu 11 20 0x911),
      (0b0000011_01000_10010_010_00101_0000011, .lw 5 18 0x068),
      (0b0010011_00000_11100_110_00011_0000011, .lwu 3 28 0x260),
      (0b0111100_10110_01001_011_10101_0000011, .ld 21 9 0x796),
      (0b0111101_10000_11100_000_11101_0100011, .sb 28 16 0x7BD),
      (0b0101011_00101_00011_001_11011_0100011, .sh 3 5 0x57B),
      (0b0010100_10000_01001_010_10101_0100011, .sw 9 16 0x295),
      (0b1011000_00111_00001_011_01010_0100011, .sd 1 7 0xB0A)] := by decide

/-- CSR access, environment call and break, fences (43_system.md). -/
theorem test_decode_system : decodesAll
    [(0b0000000_00011_11110_001_10010_1110011, .csrrw 18 30 0x003),
      (0b1010101_11100_11100_010_10101_1110011, .csrrs 21 28 0xABC),
      (0b1010101_11100_11110_011_01100_1110011, .csrrc 12 30 0xABC),
      (0b0000000_00010_10100_101_10010_1110011, .csrrwi 18 20 0x002),
      (0b1100000_00000_11000_110_11010_1110011, .csrrsi 26 24 0xC00),
      (0b0000000_00011_11000_111_11010_1110011, .csrrci 26 24 0x003),
      (0b0000000_00000_00000_000_00000_1110011, .ecall),
      (0b0000000_00001_00000_000_00000_1110011, .ebreak),
      (0b0001_001_1_0001_11110_000_11010_0001111, .fence 1 3 1 30 26),
      (0b0111101_11000_10000_001_01000_0001111, .fenceI 0x7B8 16 8)] := by decide

/-- RV64M (44_multiply_divide.md). -/
theorem test_decode_multiplyDivide : decodesAll
    [(0b0000001_11011_11101_000_10100_0110011, .mul 20 29 27),
      (0b0000001_01100_10101_000_11110_0111011, .mulw 30 21 12),
      (0b0000001_10110_11011_001_00011_0110011, .mulh 3 27 22),
      (0b0000001_11001_10111_011_11010_0110011, .mulhu 26 23 25),
      (0b0000001_01110_00110_010_11101_0110011, .mulhsu 29 6 14),
      (0b0000001_11010_00011_100_01011_0110011, .div 11 3 26),
      (0b0000001_11000_01101_100_01111_0111011, .divw 15 13 24),
      (0b0000001_00001_00101_101_00110_0110011, .divu 6 5 1),
      (0b0000001_00101_10101_101_11010_0111011, .divuw 26 21 5),
      (0b0000001_11110_10110_110_10000_0110011, .rem 16 22 30),
      (0b0000001_00001_00101_110_10010_0111011, .remw 18 5 1),
      (0b0000001_10001_00100_111_10101_0110011, .remu 21 4 17),
      (0b0000001_00111_11100_111_01110_0111011, .remuw 14 28 7)] := by decide

/-- RV64F/RV64D loads, stores, sign injection, min/max, compare, classify, moves (45_fp_move_compare.md). -/
theorem test_decode_fpMoveCompare : decodesAll
    [(0b0011110_11001_01001_010_00001_0000111, .flw 1 9 0x3D9),
      (0b0110101_10100_10011_011_11001_0000111, .fld 25 19 0x6B4),
      (0b0101101_00010_00101_010_01001_0100111, .fsw 5 2 0x5A9),
      (0b0110101_10110_01111_011_11010_0100111, .fsd 15 22 0x6BA),
      (0b0010000_11101_11110_000_11011_1010011, .fsgnjS 27 30 29),
      (0b0010001_10001_00101_000_10010_1010011, .fsgnjD 18 5 17),
      (0b0010000_10100_00110_001_11001_1010011, .fsgnjnS 25 6 20),
      (0b0010001_10000_00101_001_00110_1010011, .fsgnjnD 6 5 16),
      (0b0010000_00010_10010_010_00100_1010011, .fsgnjxS 4 18 2),
      (0b0010001_10000_10010_010_10001_1010011, .fsgnjxD 17 18 16),
      (0b0010100_00010_10010_000_11101_1010011, .fminS 29 18 2),
      (0b0010101_11001_00010_000_01001_1010011, .fminD 9 2 25),
      (0b0010100_00001_10010_001_01111_1010011, .fmaxS 15 18 1),
      (0b0010101_10100_01011_001_01111_1010011, .fmaxD 15 11 20),
      (0b1010000_10111_00111_010_10001_1010011, .feqS 17 7 23),
      (0b1010001_11010_10010_010_10001_1010011, .feqD 17 18 26),
      (0b1010000_10001_10111_001_01000_1010011, .fltS 8 23 17),
      (0b1010001_11101_10010_001_11110_1010011, .fltD 30 18 29),
      (0b1010000_00100_01110_000_00101_1010011, .fleS 5 14 4),
      (0b1010001_10110_00011_000_01011_1010011, .fleD 11 3 22),
      (0b1110000_00000_00111_001_00011_1010011, .fclassS 3 7),
      (0b1110001_00000_11001_001_11101_1010011, .fclassD 29 25),
      (0b1111000_00000_01100_000_10110_1010011, .fmvSX 22 12),
      (0b1111001_00000_01000_000_01111_1010011, .fmvDX 15 8),
      (0b1110000_00000_10000_000_11101_1010011, .fmvXS 29 16),
      (0b1110001_00000_10111_000_00110_1010011, .fmvXD 6 23)] := by decide

/-- RV64F/RV64D arithmetic and precision conversions (46_fp_arith_convert.md). -/
theorem test_decode_fpArithConvert : decodesAll
    [(0b0000000_00111_01110_010_01011_1010011, .faddS 11 14 7 2),
      (0b0000001_01100_11000_010_00011_1010011, .faddD 3 24 12 2),
      (0b0000100_10111_01111_011_10010_1010011, .fsubS 18 15 23 3),
      (0b0000101_10100_10001_100_01011_1010011, .fsubD 11 17 20 4),
      (0b0001000_11110_00100_001_00011_1010011, .fmulS 3 4 30 1),
      (0b0001001_00011_00100_010_11101_1010011, .fmulD 29 4 3 2),
      (0b0001100_11001_11101_010_00010_1010011, .fdivS 2 29 25 2),
      (0b0001101_11011_00101_111_11001_1010011, .fdivD 25 5 27 7),
      (0b0101100_00000_01001_100_11011_1010011, .fsqrtS 27 9 4),
      (0b0101101_00000_10001_111_11110_1010011, .fsqrtD 30 17 7),
      (0b00010_00_01001_00011_111_01011_1000011, .fmaddS 11 3 9 2 7),
      (0b00011_01_11101_01110_010_00110_1000011, .fmaddD 6 14 29 3 2),
      (0b11010_00_00011_10101_010_00001_1000111, .fmsubS 1 21 3 26 2),
      (0b01000_01_11100_10100_000_00011_1000111, .fmsubD 3 20 28 8 0),
      (0b01111_00_00100_11100_000_01001_1001111, .fnmaddS 9 28 4 15 0),
      (0b11110_01_01110_10010_010_01011_1001111, .fnmaddD 11 18 14 30 2),
      (0b10001_00_00010_00101_111_10100_1001011, .fnmsubS 20 5 2 17 7),
      (0b01001_01_00110_00100_000_01000_1001011, .fnmsubD 8 4 6 9 0),
      (0b0100000_00001_00111_111_00110_1010011, .fcvtSD 6 7 7),
      (0b0100001_00000_10001_010_01010_1010011, .fcvtDS 10 17 2)] := by decide

/-- RV64F/RV64D integer conversions (49_fp_int_convert.md). -/
theorem test_decode_fpIntConvert : decodesAll
    [(0b1101000_00000_10001_010_01111_1010011, .fcvtSW 15 17 2),
      (0b1101001_00000_11010_000_01100_1010011, .fcvtDW 12 26 0),
      (0b1101000_00010_11000_001_00001_1010011, .fcvtSL 1 24 1),
      (0b1101001_00010_10000_011_10001_1010011, .fcvtDL 17 16 3),
      (0b1101000_00001_10110_011_00100_1010011, .fcvtSWu 4 22 3),
      (0b1101001_00001_10000_011_10110_1010011, .fcvtDWu 22 16 3),
      (0b1101000_00011_01010_001_10001_1010011, .fcvtSLu 17 10 1),
      (0b1101001_00011_00111_111_01011_1010011, .fcvtDLu 11 7 7),
      (0b1100000_00000_10101_010_11000_1010011, .fcvtWS 24 21 2),
      (0b1100001_00000_11011_000_00010_1010011, .fcvtWD 2 27 0),
      (0b1100000_00010_11000_011_10101_1010011, .fcvtLS 21 24 3),
      (0b1100001_00010_00010_011_00110_1010011, .fcvtLD 6 2 3),
      (0b1100000_00001_10001_100_11100_1010011, .fcvtWuS 28 17 4),
      (0b1100001_00001_10111_011_01000_1010011, .fcvtWuD 8 23 3),
      (0b1100000_00011_01001_010_00110_1010011, .fcvtLuS 6 9 2),
      (0b1100001_00011_01011_000_01100_1010011, .fcvtLuD 12 11 0)] := by decide

/-- RV64A (47_atomic.md). -/
theorem test_decode_atomic : decodesAll
    [(0b00000_0_1_00111_01010_010_11101_0101111, .amoaddW 29 10 7 false true),
      (0b00000_0_1_00011_01101_011_01011_0101111, .amoaddD 11 13 3 false true),
      (0b01100_1_0_11001_10001_010_01000_0101111, .amoandW 8 17 25 true false),
      (0b01100_0_1_00101_00011_011_11011_0101111, .amoandD 27 3 5 false true),
      (0b10100_0_1_01010_00001_010_01101_0101111, .amomaxW 13 1 10 false true),
      (0b10100_1_0_11100_10001_011_10011_0101111, .amomaxD 19 17 28 true false),
      (0b11100_1_0_11000_01011_010_11001_0101111, .amomaxuW 25 11 24 true false),
      (0b11100_1_0_10101_10100_011_11000_0101111, .amomaxuD 24 20 21 true false),
      (0b10000_0_1_11010_10111_010_11000_0101111, .amominW 24 23 26 false true),
      (0b10000_0_1_10011_10110_011_11011_0101111, .amominD 27 22 19 false true),
      (0b11000_1_0_00010_00001_010_00011_0101111, .amominuW 3 1 2 true false),
      (0b11000_0_1_11011_01101_011_00100_0101111, .amominuD 4 13 27 false true),
      (0b01000_1_0_10010_00001_010_10101_0101111, .amoorW 21 1 18 true false),
      (0b01000_0_1_01111_00001_011_01001_0101111, .amoorD 9 1 15 false true),
      (0b00001_1_0_00011_10001_010_10110_0101111, .amoswapW 22 17 3 true false),
      (0b00001_0_1_00011_11010_011_01001_0101111, .amoswapD 9 26 3 false true),
      (0b00100_1_0_00111_11001_010_11000_0101111, .amoxorW 24 25 7 true false),
      (0b00100_1_0_01101_11100_011_10000_0101111, .amoxorD 16 28 13 true false),
      (0b00010_0_1_00000_00010_010_11001_0101111, .lrW 25 2 false true),
      (0b00010_1_0_00000_10100_011_00011_0101111, .lrD 3 20 true false),
      (0b00011_0_1_00101_10011_010_10100_0101111, .scW 20 19 5 false true),
      (0b00011_0_1_10110_01001_011_10000_0101111, .scD 16 9 22 false true)] := by decide

-- ==== WellFormed: an ill-formed term for each check, and the largest well-formed offsets ====

theorem test_wf_refuses_odd_beq : ¬ (Instr.beq 1 2 0x0001).WellFormed := by decide
theorem test_wf_refuses_odd_bne : ¬ (Instr.bne 1 2 0x0001).WellFormed := by decide
theorem test_wf_refuses_odd_blt : ¬ (Instr.blt 1 2 0x1FFF).WellFormed := by decide
theorem test_wf_refuses_odd_bge : ¬ (Instr.bge 1 2 0x0FFF).WellFormed := by decide
theorem test_wf_refuses_odd_bltu : ¬ (Instr.bltu 1 2 0x0003).WellFormed := by decide
theorem test_wf_refuses_odd_bgeu : ¬ (Instr.bgeu 1 2 0x1001).WellFormed := by decide
theorem test_wf_refuses_odd_jal : ¬ (Instr.jal 1 0x000001).WellFormed := by decide

/-- Words the spec calls no instruction are refused (R92): all zeros, all ones, a compressed word, a reserved width. -/
theorem test_decode_refuses :
    ([0x00000000, 0xFFFFFFFF, 0x00000001, 0x00008082, 0x0000000B, 0x00007003].all fun w => decodeTableWord 32 w == none) := by
  decide

-- ==== Witnesses: states and operands that meet the hypotheses of the statements ====

/-- Memory that lets everything be read and written, with eight bytes at the top of the address space. -/
def topState : State := { State.reset with mem := bytesAt 0xFFFFFFFFFFFFFFF8 [1, 2, 3, 4, 5, 6, 7, 0x88] }

/-- The same state under a map with no region. -/
def closedState : State := { topState with params := ⟨[], false, true⟩ }

/-- The address of the highest doubleword. -/
def topAddr : Dword := 0xFFFFFFFFFFFFFFF8

/-- A state with counters, the reserved rounding mode 5 in `fcsr`, and −2^63 and −1 in registers. -/
def oddState : State :=
  { (((State.reset.writeX 6 0x8000000000000000).writeX 7 0xFFFFFFFFFFFFFFFF).writeX 8 0x80000000).writeF 1 0x3F800000 with
    fcsr := 0xA0, params := ⟨[⟨0, 2 ^ 64, true, true, true⟩], true, true⟩ }

theorem witness_DecodeInvertsEncode :
    (Instr.beq 31 31 0x1FFE).WellFormed ∧ (Instr.jal 31 0x1FFFFE).WellFormed ∧ (Instr.fmaddS 31 31 31 31 7).WellFormed := by
  decide

theorem witness_EncodeInvertsDecode :
    decode 0xFE731CE3#32 = .ok (.bne 6 7 0x1FF8) ∧ decode 0xFF1FF06F#32 = .ok (.jal 0 0x1FFFF0) := ⟨by rfl, by rfl⟩

theorem witness_DecodeFollowsOpcodeTable : ∃ r ∈ opcodeTable, r.Matches 0x00000073#32 := by decide

/-- At the lowest and at the highest word, the second with an older value held that equals the current one. -/
theorem witness_StepRunsDecodedInstruction :
    (let s := State.reset.placeWord 0x00000013
     s.trap = none ∧ s.pc.toNat % 4 = 0 ∧ (∀ k < 4, permits s.params .execute (s.pc.toNat + k) = true) ∧
       s.mem.read s.pc.toNat = some 0x13 ∧ s.mem.read (s.pc.toNat + 1) = some 0 ∧ s.mem.read (s.pc.toNat + 2) = some 0 ∧
       s.mem.read (s.pc.toNat + 3) = some 0 ∧ (∀ e ∈ s.stale, e.word = s.pc.toNat → e.value = some 0x00000013#32) ∧
       decode 0x00000013#32 = .ok (.addi 0 0 0)) ∧
    (let s := { ({ State.reset with pc := 0xFFFFFFFFFFFFFFFC }).placeWord 0x00000073 with
                  stale := [⟨0xFFFFFFFFFFFFFFFC, some 0x00000073#32⟩] }
     s.trap = none ∧ s.pc.toNat % 4 = 0 ∧ (∀ k < 4, permits s.params .execute (s.pc.toNat + k) = true) ∧
       s.mem.read s.pc.toNat = some 0x73 ∧ s.mem.read (s.pc.toNat + 1) = some 0 ∧ s.mem.read (s.pc.toNat + 2) = some 0 ∧
       s.mem.read (s.pc.toNat + 3) = some 0 ∧ (∀ e ∈ s.stale, e.word = s.pc.toNat → e.value = some 0x00000073#32) ∧
       decode 0x00000073#32 = .ok .ecall) :=
  ⟨⟨by decide, by decide, by decide, by decide, by decide, by decide, by decide, by decide, by rfl⟩,
    ⟨by decide, by decide, by decide, by decide, by decide, by decide, by decide, by decide, by rfl⟩⟩

/-- The word at 0 holds `nop` and has held `ecall`. -/
theorem witness_StaleFetchRunsOldOrNewWord :
    let s := { State.reset.placeWord 0x00000013 with stale := [⟨0, some 0x00000073#32⟩] }
    s.trap = none ∧ s.pc.toNat % 4 = 0 ∧ (∀ k < 4, permits s.params .execute (s.pc.toNat + k) = true) ∧
      s.mem.wordAt s.pc.toNat = some 0x00000013#32 ∧ (∀ e ∈ s.stale, e.word = s.pc.toNat → e.value ≠ none) := by decide

theorem witness_UnmatchedWordIsIllegal :
    (∀ r ∈ opcodeTable, ¬ r.Matches 0x00000000#32) ∧ ∀ r ∈ opcodeTable, ¬ r.Matches 0xFFFFFFFF#32 := by decide

/-- The first byte outside, and the fourth alone. -/
theorem witness_FetchOutsideExecutableMemoryFaults :
    (closedState.trap = none ∧ closedState.pc.toNat % 4 = 0 ∧ permits closedState.params .execute (0 + 0) = false) ∧
    (let s := { State.reset with params := ⟨[⟨0, 3, true, true, true⟩], false, true⟩ }
     s.trap = none ∧ s.pc.toNat % 4 = 0 ∧ permits s.params .execute (s.pc.toNat + 2) = true ∧
       permits s.params .execute (s.pc.toNat + 3) = false) := by decide

theorem witness_TrapRecordGoesToEnvironment :
    (State.reset.withTrap .environmentCall).trap = some .environmentCall ∧
    (haltOnTrap .environmentCall State.reset = none) ∧
    (fun (_ : Exception) (s : State) => some (s.setPc 8)) .environmentCall State.reset = some (State.reset.setPc 8) := by
  decide

theorem witness_RaisingInstructionChangesNothing :
    State.reset.trap = none ∧ exec .ecall State.reset = .next (State.reset.withTrap .environmentCall) ∧
      (State.reset.withTrap .environmentCall).trap = some .environmentCall := ⟨by rfl, by rfl, by rfl⟩

theorem witness_InstructionRaisesOnlyItsExceptions :
    State.reset.trap = none ∧ exec (.lh 5 0 1) State.reset = .next (State.reset.withTrap (.loadAddressMisaligned 1)) ∧
      (State.reset.withTrap (.loadAddressMisaligned 1)).trap = some (.loadAddressMisaligned 1) :=
  ⟨by rfl, by rfl, by rfl⟩

/-- A state that meets the invariant and has a reservation, an older value, and a next state. -/
theorem witness_StepKeepsInvariant :
    let s : State := { State.reset.placeWord 0x00000013 with resv := some ⟨topAddr, 8⟩, stale := [⟨2 ^ 64 - 4, none⟩] }
    s.Inv ∧ step s = .next (s.setPc 4) := by
  refine ⟨⟨by decide, by decide, by decide, ?_, by decide, by decide⟩, by rfl⟩
  intro r h
  cases h
  decide

theorem witness_StepKeepsParametersAndProtectedMemory :
    let s : State := { State.reset with params := ⟨[⟨0, 4, true, false, true⟩], false, true⟩ }.placeWord 0x00000013
    step s = .next (s.setPc 4) ∧ permits s.params .write 0 = false ∧ s.mem.read 0 = some 0x13 := ⟨by rfl, by decide, by decide⟩

theorem witness_OnlyCsrInstructionsClearFlags :
    ¬ IsCsr (.add 5 6 7) ∧ exec (.add 0 6 7) oddState = .next (oddState.setPc 4) := ⟨fun h => h, by rfl⟩

theorem witness_OnlyReservationInstructionsTouchReservation :
    ¬ IsReservation (.add 0 6 7) ∧ oddState.trap = none ∧ exec (.add 0 6 7) oddState = .next (oddState.setPc 4) ∧
      (oddState.setPc 4).trap = none := ⟨fun h => h, by rfl, by rfl, by rfl⟩

/-- Condition false with a misaligned offset; true with the least and the greatest aligned offset; true and misaligned. -/
theorem witness_BranchesGoWhereTheyShould :
    let s := State.reset
    decide (s.readX 1 ≠ s.readX 2) = false ∧ decide (s.readX 1 = s.readX 2) = true ∧
      (BitVec.ofInt 64 (s.pc.toNat + (0x1000#13).toInt)).toNat % 4 = 0 ∧
      (BitVec.ofInt 64 (s.pc.toNat + (0x0FFC#13).toInt)).toNat % 4 = 0 ∧
      (BitVec.ofInt 64 (s.pc.toNat + (0x0FFE#13).toInt)).toNat % 4 ≠ 0 := by decide

theorem witness_JumpsGoAndLink :
    (BitVec.ofInt 64 (State.reset.pc.toNat + (0x100000#21).toInt)).toNat % 4 = 0 ∧
    (BitVec.ofInt 64 (State.reset.pc.toNat + (0x0FFFFE#21).toInt)).toNat % 4 ≠ 0 ∧
    (BitVec.ofInt 64 ((State.reset.readX 1).toInt + (0x7FD#12).toInt)).getLsbD 1 = false ∧
    (BitVec.ofInt 64 ((State.reset.readX 1).toInt + (0x7FF#12).toInt)).getLsbD 1 = true := by decide

/-- An aligned `pc`; well-formed offsets with bit 1 clear and set, the greatest and the least among them; a condition that
holds and one that does not; computed addresses with bit 1 clear and set. -/
theorem witness_TargetMisalignedExactlyWhenOffsetBitOne :
    let s : State := { State.reset with pc := 0xFFFFFFFFFFFFFFFC }
    s.pc.toNat % 4 = 0 ∧ decide (s.readX 1 = s.readX 2) = true ∧ decide (s.readX 1 ≠ s.readX 2) = false ∧
      ((Instr.beq 1 2 0x0FFC).WellFormed ∧ (0x0FFC#13).getLsbD 1 = false) ∧
      ((Instr.beq 1 2 0x0FFE).WellFormed ∧ (0x0FFE#13).getLsbD 1 = true) ∧
      ((Instr.bgeu 1 2 0x1000).WellFormed ∧ (0x1000#13).getLsbD 1 = false) ∧
      ((Instr.jal 1 0x100000).WellFormed ∧ (0x100000#21).getLsbD 1 = false) ∧
      ((Instr.jal 1 0x0FFFFE).WellFormed ∧ (0x0FFFFE#21).getLsbD 1 = true) ∧
      (BitVec.ofInt 64 ((s.readX 1).toInt + (0x7FD#12).toInt)).getLsbD 1 = false ∧
      (BitVec.ofInt 64 ((s.readX 1).toInt + (0x7FF#12).toInt)).getLsbD 1 = true := by decide

/-- Each access size, up to the last byte of the address space. -/
theorem witness_LoadsComplete :
    LoadReady topState 0xFFFFFFFFFFFFFFFF 1 [0x88] ∧ LoadReady topState 0xFFFFFFFFFFFFFFFE 2 [7, 0x88] ∧
      LoadReady topState 0xFFFFFFFFFFFFFFFC 4 [5, 6, 7, 0x88] ∧ LoadReady topState topAddr 8 [1, 2, 3, 4, 5, 6, 7, 0x88] ∧
      topState.effAddr 0 0xFFF = 0xFFFFFFFFFFFFFFFF :=
  ⟨⟨by decide, by decide, by decide, by decide⟩, ⟨by decide, by decide, by decide, by decide⟩,
    ⟨by decide, by decide, by decide, by decide⟩, ⟨by decide, by decide, by decide, by decide⟩, by decide⟩

theorem witness_StoresComplete :
    StoreReady topState 0xFFFFFFFFFFFFFFFF 1 ∧ StoreReady topState 0xFFFFFFFFFFFFFFFE 2 ∧
      StoreReady topState 0xFFFFFFFFFFFFFFFC 4 ∧ StoreReady topState topAddr 8 ∧ StoreReady topState 0 8 :=
  ⟨⟨by decide, by decide⟩, ⟨by decide, by decide⟩, ⟨by decide, by decide⟩, ⟨by decide, by decide⟩, ⟨by decide, by decide⟩⟩

/-- Misaligned by one and by one less than the size; forbidden at the first byte, and at the last alone. -/
theorem witness_LoadsTrapOnBadAddress :
    (topState.effAddr 0 1).toNat % 2 ≠ 0 ∧ (topState.effAddr 0 0xFFF).toNat % 8 ≠ 0 ∧
    ((closedState.effAddr 0 0xFF8).toNat % 8 = 0 ∧ permits closedState.params .read (topAddr.toNat + 0) = false) ∧
    (let s := { State.reset with params := ⟨[⟨0, 7, true, true, true⟩], false, true⟩ }
     (s.effAddr 0 0).toNat % 8 = 0 ∧ permits s.params .read (0 + 6) = true ∧ permits s.params .read (0 + 7) = false) := by
  decide

/-- The same for stores; and memory that may be read and not written, or written and not read, under an atomic. -/
theorem witness_StoresTrapOnBadAddress :
    (topState.effAddr 0 0x001).toNat % 2 ≠ 0 ∧ (oddState.readX 7).toNat % 4 ≠ 0 ∧
    ((closedState.effAddr 0 0xFF8).toNat % 8 = 0 ∧ permits closedState.params .write (topAddr.toNat + 7) = false) ∧
    (let s := { State.reset with params := ⟨[⟨0, 8, true, false, true⟩], false, true⟩ }
     (s.readX 1).toNat % 8 = 0 ∧ permits s.params .read (0 + 7) = true ∧ permits s.params .write (0 + 7) = false) ∧
    (let s := { State.reset with params := ⟨[⟨0, 8, false, true, true⟩], false, true⟩ }
     (s.readX 1).toNat % 8 = 0 ∧ permits s.params .write (0 + 7) = true ∧ permits s.params .read (0 + 7) = false) := by
  decide

/-- After `sd x7, 0(x6)` at 2^63: the bytes at `k = 0` and `k = 7`, the halfword at `k = 6`, the word at `k = 4`. -/
theorem witness_MixedWidthLoadsSeeTheStoredBytes :
    let s : State := (((oddState.writeX 9 0x8000000000000007).writeX 10 0x8000000000000006).writeX 11 0x8000000000000004)
    let t : State := (s.putBytes 0x8000000000000000 8 0xFFFFFFFFFFFFFFFF).advance
    StoreReady s (s.effAddr 6 0) 8 ∧ (∀ j < 8, permits s.params .read ((s.effAddr 6 0).toNat + j) = true) ∧
      exec (.sd 6 7 0) s = .next t ∧ t.readX 6 = s.effAddr 6 0 + BitVec.ofNat 64 0 ∧
      t.readX 9 = s.effAddr 6 0 + BitVec.ofNat 64 7 ∧ t.readX 10 = s.effAddr 6 0 + BitVec.ofNat 64 6 ∧
      t.readX 11 = s.effAddr 6 0 + BitVec.ofNat 64 4 :=
  ⟨⟨by decide, by decide⟩, by decide, by rfl, by decide, by decide, by decide, by decide⟩

/-- A byte, a halfword, a word and a doubleword stored at the top of the address space, an `amo*`, and an `sc` that stores;
the highest word, which each of them touches. -/
theorem witness_StoreLeavesOldValueToFetch :
    let r : State :=
      { topState.writeX 6 topAddr with resv := some ⟨topAddr, 8⟩, params := ⟨[⟨0, 2 ^ 64, true, true, true⟩], false, false⟩ }
    (0xFFFFFFFFFFFFFFFC : Nat) % 4 = 0 ∧ (∀ imm rs1 rd, Instr.sd 0 0 0xFF8 ≠ .fenceI imm rs1 rd) ∧
      exec (.sb 0 0 0xFFF) topState = .next (topState.putBytes 0xFFFFFFFFFFFFFFFF 1 0).advance ∧
      exec (.sh 0 0 0xFFE) topState = .next (topState.putBytes 0xFFFFFFFFFFFFFFFE 2 0).advance ∧
      exec (.fsw 0 1 0xFFC) topState = .next (topState.putBytes 0xFFFFFFFFFFFFFFFC 4 0).advance ∧
      exec (.sd 0 0 0xFF8) topState = .next (topState.putBytes 0xFFFFFFFFFFFFFFF8 8 0).advance ∧
      exec (.amoswapD 0 6 0 false false) r = .next (r.putBytes 0xFFFFFFFFFFFFFFF8 8 0).advance ∧
      exec (.scD 0 6 0 false false) r = .next (r.scSucceeds 0 topAddr 8 0).advance :=
  ⟨by decide, (fun _ _ _ h => nomatch h), by rfl, by rfl, by rfl, by rfl, by rfl, by rfl⟩

/-- The neighbours of the implemented addresses; the counters where there are none, and the address after them. -/
theorem witness_AbsentCsrIsIllegal :
    (∀ a ∈ [0x000#12, 0x004#12, 0xC00#12, 0xC02#12], a ∉ [0x001#12, 0x002#12, 0x003#12]) ∧
      State.reset.params.hasCounters = false ∧
      (oddState.params.hasCounters = true → 0xC03#12 ∉ [0xC00#12, 0xC01#12, 0xC02#12]) ∧ oddState.params.hasCounters = true := by
  decide

theorem witness_CountersReadAsDrawsAndAreReadOnly : oddState.params.hasCounters = true ∧ (1 : Reg) ≠ 0 ∧ (31#5) ≠ 0 := by
  decide

theorem witness_DivideAndRemainder :
    oddState.readX 7 ≠ 0 ∧ (oddState.readX 7).extractLsb' 0 32 ≠ 0 ∧ oddState.readX 6 ≠ 0 ∧
      (oddState.readX 6).extractLsb' 0 32 = 0 := by decide

theorem witness_DivisionCornerCases :
    oddState.readX 0 = 0 ∧ (oddState.readX 6).extractLsb' 0 32 = 0 ∧
      ((oddState.readX 6).toInt = -2 ^ 63 ∧ (oddState.readX 7).toInt = -1) ∧
      (((oddState.readX 8).extractLsb' 0 32).toInt = -2 ^ 31 ∧ ((oddState.readX 7).extractLsb' 0 32).toInt = -1) := by decide

theorem witness_DividendIsDivisorTimesQuotientPlusRemainder : (0x8000000000000000#64) ≠ 0 ∧ (0xFFFFFFFFFFFFFFFF#64) ≠ 0 := by
  decide

theorem witness_SinglesAreBoxed :
    (oddState.readF 1).extractLsb' 32 32 ≠ 0xFFFFFFFF#32 ∧
      ((oddState.writeF 2 0xFFFFFFFEFFFFFFFF).readF 2).extractLsb' 32 32 ≠ 0xFFFFFFFF#32 := by decide

/-- Each named mode, statically and through `fcsr`. -/
theorem witness_FpArithmeticCompletes :
    State.reset.rmode 0 = some .rne ∧ State.reset.rmode 4 = some .rmm ∧ State.reset.rmode 7 = some .rne ∧
      ({ State.reset with fcsr := 0x80 }).rmode 7 = some .rmm := by decide

theorem witness_FpFusedCompletes : oddState.rmode 3 = some .rup ∧ State.reset.rmode 7 = some .rne := by decide

theorem witness_FpIntConversionsComplete : oddState.rmode 1 = some .rtz ∧ State.reset.rmode 7 = some .rne := by decide

theorem witness_ReservedRoundingModeIsIllegal :
    oddState.rmode 5 = none ∧ oddState.rmode 6 = none ∧ oddState.rmode 7 = none := by decide

theorem witness_AtomicOperationsComplete :
    (LoadReady topState 0xFFFFFFFFFFFFFFFC 4 [5, 6, 7, 0x88] ∧ StoreReady topState 0xFFFFFFFFFFFFFFFC 4) ∧
    (LoadReady topState topAddr 8 [1, 2, 3, 4, 5, 6, 7, 0x88] ∧ StoreReady topState topAddr 8) ∧
    (topState.writeX 6 topAddr).readX 6 = topAddr :=
  ⟨⟨⟨by decide, by decide, by decide, by decide⟩, ⟨by decide, by decide⟩⟩,
    ⟨⟨by decide, by decide, by decide, by decide⟩, ⟨by decide, by decide⟩⟩, by decide⟩

theorem witness_LoadReservedCompletes :
    LoadReady topState 0xFFFFFFFFFFFFFFFC 4 [5, 6, 7, 0x88] ∧ LoadReady topState topAddr 8 [1, 2, 3, 4, 5, 6, 7, 0x88] :=
  ⟨⟨by decide, by decide, by decide, by decide⟩, ⟨by decide, by decide, by decide, by decide⟩⟩

/-- No reservation; one of the other size; one that matches, with SC_MAY_FAIL false and true. -/
theorem witness_StoreConditionalCompletes :
    StoreReady State.reset (State.reset.readX 6) 8 ∧ State.reset.resv ≠ some ⟨State.reset.readX 6, 8⟩ ∧
      (State.reset.setResv (some ⟨0, 4⟩)).resv ≠ some ⟨State.reset.readX 6, 8⟩ ∧
      (State.reset.setResv (some ⟨0, 8⟩)).resv = some ⟨State.reset.readX 6, 8⟩ ∧ State.reset.params.scMayFail = true ∧
      ({ State.reset.setResv (some ⟨0, 4⟩) with params := ⟨[⟨0, 2 ^ 64, true, true, true⟩], false, false⟩ }).params.scMayFail =
        false := ⟨⟨by decide, by decide⟩, by decide, by decide, by decide, by decide, by decide⟩

-- ---- Floating-point operands ----

/-- Patterns of the single format: zeros, infinities, NaNs, the least subnormal, 1, and the greatest finite number. -/
theorem test_single_patterns :
    single.unpack 0 = .fin false 0 (-149) ∧ single.unpack 0x80000000 = .fin true 0 (-149) ∧
      single.unpack 1 = .fin false 1 (-149) ∧ single.unpack 0x3F800000 = .fin false (2 ^ 23) (-23) ∧
      single.unpack 0xBF800000 = .fin true (2 ^ 23) (-23) ∧
      single.unpack 0x7F7FFFFF = .fin false (2 ^ 24 - 1) 104 ∧ single.unpack 0x7F800000 = .inf false ∧
      single.unpack 0xFF800000 = .inf true ∧ (single.unpack 0x7F800001).isSignaling = true ∧
      (single.unpack 0x7FC00000).isNaN = true := by decide

/-- The same of the double format. -/
theorem test_double_patterns :
    double.unpack 0 = .fin false 0 (-1074) ∧ double.unpack 1 = .fin false 1 (-1074) ∧
      double.unpack 0x3FF0000000000000 = .fin false (2 ^ 52) (-52) ∧
      double.unpack 0xBFF0000000000000 = .fin true (2 ^ 52) (-52) ∧
      double.unpack 0x7FEFFFFFFFFFFFFF = .fin false (2 ^ 53 - 1) 971 ∧ double.unpack 0xFFF0000000000000 = .inf true ∧
      (double.unpack 0x7FF0000000000001).isSignaling = true ∧ (double.unpack 0x7FF8000000000000).isNaN = true := by decide

/-- Operands that are no NaN (finite, zeros of either sign, an infinity), and operands that are. -/
theorem witness_ComparisonsCompareTheNumbers :
    (single.unpack 0).isNaN = false ∧ (single.unpack 0x80000000).isNaN = false ∧
      (double.unpack 0x7FEFFFFFFFFFFFFF).isNaN = false ∧ (double.unpack 0xFFF0000000000000).isNaN = false ∧
      ((single.unpack 0x7F800001).isNaN || (single.unpack 0).isNaN) = true ∧
      ((double.unpack 0).isNaN || (double.unpack 0x7FF8000000000000).isNaN) = true := by decide

/-- For each clause: two NaNs, one NaN on either side, two zeros, and other operands, one of them −∞. -/
theorem witness_MinMaxFollowsRule :
    ((single.unpack 0x7F800001).isNaN = true ∧ (single.unpack 0xFFC00000).isNaN = true) ∧
      ((single.unpack 0x80000000).isNaN = false ∧ (single.unpack 0).isNaN = false ∧
        (single.unpack 0x80000000).toExt = 0 ∧ (single.unpack 0).toExt = 0) ∧
      ((single.unpack 0xFF800000).isNaN = false ∧ (single.unpack 0xFF800000).toExt ≠ 0) := by
  refine ⟨⟨by decide, by decide⟩, ⟨by decide, by decide, ?_, ?_⟩, by decide, ?_⟩
  · rw [test_single_patterns.2.1]; simp [FpVal.toExt, FpVal.toRat]
  · rw [test_single_patterns.1]; simp [FpVal.toExt, FpVal.toRat]
  · rw [test_single_patterns.2.2.2.2.2.2.2.1]; simp [FpVal.toExt]

/-- Numbers that stand for 0, for 1 exactly, and for a number cut off after the 24 bits that single needs; and the two cases
of a rounding: 1, and 2^128 which overflows. -/
theorem witness_RoundIsTheSpecsRounding :
    (⟨false, 0, 0, false⟩ : Exact).StandsFor single.prec (0 : ℚ) ∧
      (⟨false, 1, 0, false⟩ : Exact).StandsFor single.prec (1 : ℚ) ∧
      (⟨true, 2 ^ 24, -24, true⟩ : Exact).StandsFor single.prec (1 + 1 / 2 ^ 25 : ℚ) ∧
      ((2 : ℚ) ^ (0 : ℤ) ≤ 1 ∧ (1 : ℚ) < 2 ^ ((0 : ℤ) + 1)) ∧
      (2 : ℚ) ^ (single.bias + 1) ≤ single.roundAt .rtz false (2 ^ 128) (max 128 single.emin) ∧
      single.roundAt .rtz false (1 : ℚ) (max 0 single.emin) < 2 ^ (single.bias + 1) := by
  refine ⟨?_, ?_, ?_, by norm_num, ?_, ?_⟩
  · simp [Exact.StandsFor]
  · simp [Exact.StandsFor]
  · norm_num [Exact.StandsFor, single, Fmt.prec]
  · norm_num [Fmt.roundAt, roundToInt, single, Fmt.emin, Fmt.bias, Fmt.prec]
  · norm_num [Fmt.roundAt, roundToInt, single, Fmt.emin, Fmt.bias, Fmt.prec]

theorem witness_UnderflowAndOverflowComeWithInexact :
    (single.round .rne ⟨false, 3, -150, false⟩ false).flags &&& flagUF ≠ 0 ∧
      (double.round .rne ⟨false, 1, 1024, false⟩ false).flags &&& flagOF ≠ 0 := by decide

/-- 1 + 1, 1 − (−1), 1 × 1 and 1 × 1 + 1 are not zero. -/
theorem witness_ArithmeticRoundsTheExactResult :
    (single.unpack 0x3F800000).IsFinite ∧ (single.unpack 0xBF800000).IsFinite ∧
      (let x := (single.unpack 0x3F800000).toRat
       let y := (single.unpack 0xBF800000).toRat
       x + x ≠ 0 ∧ x - y ≠ 0 ∧ x * y ≠ 0 ∧ 1 * x * x + 1 * x ≠ 0) := by
  refine ⟨trivial, trivial, ?_⟩
  simp only [test_single_patterns.2.2.2.1, test_single_patterns.2.2.2.2.1, FpVal.toRat]
  norm_num

/-- 1 + (−1), 1 − 1, 0 × 1, 0 / 1 and 1 × (−1) + 1 are zero, and so are 0 + (−0) and 0 × 0 + (−0). -/
theorem witness_ExactZeroResultsHaveTheRulesSign :
    (single.unpack 0x3F800000).IsFinite ∧ (single.unpack 0xBF800000).IsFinite ∧ (single.unpack 0).IsFinite ∧
      (single.unpack 0x80000000).IsFinite ∧
      (let x := (single.unpack 0x3F800000).toRat
       let y := (single.unpack 0xBF800000).toRat
       let z := (single.unpack 0).toRat
       let w := (single.unpack 0x80000000).toRat
       x + y = 0 ∧ x - x = 0 ∧ z * x = 0 ∧ (z = 0 ∧ x ≠ 0) ∧ 1 * x * y + 1 * x = 0 ∧ z + w = 0 ∧ 1 * z * z + 1 * w = 0) := by
  refine ⟨trivial, trivial, trivial, trivial, ?_⟩
  simp only [test_single_patterns.1, test_single_patterns.2.1, test_single_patterns.2.2.2.1,
    test_single_patterns.2.2.2.2.1, FpVal.toRat]
  norm_num

theorem witness_DivisionRoundsTheExactQuotient :
    (double.unpack 0x3FF0000000000000).IsFinite ∧ (double.unpack 1).IsFinite ∧
      (double.unpack 0x3FF0000000000000).toRat ≠ 0 ∧ (double.unpack 1).toRat ≠ 0 := by
  refine ⟨trivial, trivial, ?_, ?_⟩
  · rw [test_double_patterns.2.2.1]; norm_num [FpVal.toRat]
  · rw [test_double_patterns.2.1]; norm_num [FpVal.toRat]

/-- The least subnormal, and the numbers just below 1, whose roots lie just below a power of two. -/
theorem witness_SquareRootIsCorrectlyRounded :
    ((single.unpack 1).IsFinite ∧ 0 < (single.unpack 1).toRat) ∧
      ((single.unpack 0x3F7FFFFF).IsFinite ∧ 0 < (single.unpack 0x3F7FFFFF).toRat) ∧
      ((single.unpack 0x3F7FFFFE).IsFinite ∧ 0 < (single.unpack 0x3F7FFFFE).toRat) ∧
      ((double.unpack 0x3FF0000000000000).IsFinite ∧ 0 < (double.unpack 0x3FF0000000000000).toRat) := by
  have h₁ : single.unpack 0x3F7FFFFF = .fin false (2 ^ 24 - 1) (-24) := by decide
  have h₂ : single.unpack 0x3F7FFFFE = .fin false (2 ^ 24 - 2) (-24) := by decide
  refine ⟨⟨trivial, ?_⟩, ⟨trivial, ?_⟩, ⟨trivial, ?_⟩, trivial, ?_⟩
  · rw [test_single_patterns.2.2.1]; norm_num [FpVal.toRat]
  · rw [h₁]; norm_num [FpVal.toRat]
  · rw [h₂]; norm_num [FpVal.toRat]
  · rw [test_double_patterns.2.2.1]; norm_num [FpVal.toRat]

/-- Roots just below 1, by hand from R265: √(1 − 2^−24) lies below the middle of 1 − 2^−24 and 1; √(1 − 2^−23) lies below
1 − 2^−24, to which RUP takes it. -/
theorem test_sqrt_below_power_of_two :
    single.sqrt .rne 0x3F7FFFFF = ⟨0x3F7FFFFF, flagNX⟩ ∧ single.sqrt .rup 0x3F7FFFFE = ⟨0x3F7FFFFF, flagNX⟩ := by decide

/-- A NaN; infinities of either sign; a zero of either sign; a negative and a nonzero finite number. -/
theorem witness_SpecialOperandsGiveTheirResults :
    ((single.unpack 0x7F800001).isNaN || (single.unpack 0).isNaN) = true ∧ single.unpack 0x7F800000 = .inf false ∧
      single.unpack 0xFF800000 = .inf (!false) ∧
      ((single.unpack 0x80000000).IsFinite ∧ (single.unpack 0x80000000).toRat = 0) ∧
      ((single.unpack 0xBF800000).IsFinite ∧ (single.unpack 0xBF800000).toRat < 0 ∧
        (single.unpack 0xBF800000).toRat ≠ 0) := by
  refine ⟨by decide, by decide, by decide, ⟨trivial, ?_⟩, trivial, ?_, ?_⟩
  · rw [test_single_patterns.2.1]; norm_num [FpVal.toRat]
  · rw [test_single_patterns.2.2.2.2.1]; norm_num [FpVal.toRat]
  · rw [test_single_patterns.2.2.2.2.1]; norm_num [FpVal.toRat]

/-- ∞ × 0; a NaN beside operands that are not ∞ × 0; ∞ × −1 with a finite and with each infinite addend; a finite product
with an infinite addend. -/
theorem witness_FusedSpecialOperandsGiveTheirResults :
    (single.unpack 0x7F800000 = .inf false ∧ (single.unpack 0).IsFinite ∧ (single.unpack 0).toRat = 0) ∧
      ((single.unpack 0x7F800001).isNaN || (single.unpack 0).isNaN || (single.unpack 0).isNaN) = true ∧
      ¬ (single.unpack 0x7F800001 = .inf false ∨ single.unpack 0x7F800001 = .inf true) ∧
      ((single.unpack 0xBF800000).IsFinite ∧ (single.unpack 0xBF800000).toRat ≠ 0) ∧
      single.unpack 0xFF800000 = .inf true := by
  refine ⟨⟨by decide, trivial, ?_⟩, by decide, by decide, ⟨trivial, ?_⟩, by decide⟩
  · rw [test_single_patterns.1]; norm_num [FpVal.toRat]
  · rw [test_single_patterns.2.2.2.2.1]; norm_num [FpVal.toRat]

/-- The least subnormal single, a zero, an infinity, a NaN; and integers that are not zero. -/
theorem witness_ConversionsRoundTheValue :
    ((single.unpack 1).IsFinite ∧ (single.unpack 1).toRat ≠ 0) ∧
      ((single.unpack 0x80000000).IsFinite ∧ (single.unpack 0x80000000).toRat = 0) ∧
      single.unpack 0xFF800000 = .inf true ∧ (single.unpack 0x7FC00000).isNaN = true ∧ (-2 ^ 63 : Int) ≠ 0 := by
  refine ⟨⟨trivial, ?_⟩, ⟨trivial, ?_⟩, by decide, by decide, by decide⟩
  · rw [test_single_patterns.2.2.1]; norm_num [FpVal.toRat]
  · rw [test_single_patterns.2.1]; norm_num [FpVal.toRat]

theorem witness_FloatToIntegerFollowsRule :
    ((32 : Nat) = 32 ∨ (32 : Nat) = 64) ∧ ((64 : Nat) = 32 ∨ (64 : Nat) = 64) ∧ (single.unpack 0x7FC00000).isNaN = true ∧
      single.unpack 0x7F800000 = .inf false ∧ single.unpack 0xFF800000 = .inf true ∧
      (single.unpack 0x7F7FFFFF).IsFinite ∧ (double.unpack 1).IsFinite :=
  ⟨by decide, by decide, by decide, by decide, by decide, trivial, trivial⟩

-- ==== The machine around the instructions ====

/-- Nothing placed: the first fetch meets a byte without a value (R43). -/
theorem test_step_from_reset_finds_no_value : step State.reset = .fault (.noValue 0) := by rfl

/-- A word that is no instruction traps with the word (V30-1). -/
theorem test_step_illegal_word :
    ends (hart dataInt 0x00000000 [] []) (fun t => t.trap = some (.illegalInstruction 0) ∧ t.pc = 0x1000) := by decide

/-- A state with a trap record goes no further by default (R400). -/
theorem test_step_after_trap_halts :
    step (State.reset.withTrap (.breakpoint 0)) = .fault (.halted (.breakpoint 0)) := by rfl

/-- A fetch from data raises with `pc` (R405). -/
theorem test_step_fetch_without_permission :
    ends { hart dataInt 0x00000013 [] [] with pc := 0x2000 }
      (fun t => t.trap = some (.instructionAccessFault 0x2000)) := by decide

/-- A word stored to may be fetched as before until `fence.i`, and only as stored afterwards (R64, R200). -/
theorem test_fetch_choices_after_store :
    (let s := (hart dataInt 0x00000013 [] []).putBytes 0x1000 4 0x00000073
     s.fetchChoices 0x1000 = [some 0x00000013#32, some 0x00000073#32] ∧
       s.syncFetch.fetchChoices 0x1000 = [some 0x00000073#32]) := by decide

-- ==== Runs (R450) ====

/-- `ecall` ends a run: the record holds the state before it. -/
theorem test_run_ends_at_ecall :
    let s := hart dataInt 0x00000073 [] []
    runFor 3 s = .trapped ⟨.environmentCall, s⟩ := by decide

/-- A run past the last instruction ends in an access fault at the next address. -/
theorem test_run_past_the_end :
    let s := { State.reset with params := ⟨[⟨0, 4, true, true, true⟩], false, true⟩ }.placeWord 0x00000013
    runFor 2 s = .trapped ⟨.instructionAccessFault 4, s.setPc 4⟩ := by decide

/-- `jal x0, 0` loops for ever. -/
theorem test_run_of_self_jump (n : Nat) :
    runFor n (hart dataInt 0x0000006F [] []) = .running (hart dataInt 0x0000006F [] []) :=
  runFor_of_loop rfl (by rfl) n

/-- An environment that services `ecall` by setting `x10` and resuming at `pc + 4` (R400): resuming is no step. -/
theorem test_run_resumes :
    let s := hart dataInt 0x00000073 [] []
    runUnder (fun _ t => some ((t.writeX 10 7).setPc (t.pc + 4))) 1 s = .running ((s.writeX 10 7).setPc 0x1004) := by decide

-- ==== RV64I integer computational (40_integer_computational.md) ====

-- V40-1
theorem test_add :
    ends (hart dataInt 0x007302B3 [(6, 0x7FFFFFFFFFFFFFFF), (7, 0x1)] [])
      (fun t => t.readX 5 = 0x8000000000000000 ∧ t.pc = 0x1004) := by decide

-- V40-6
theorem test_addw :
    ends (hart dataInt 0x007302BB [(6, 0x12345678FFFFFFFF), (7, 0x1)] [])
      (fun t => t.readX 5 = 0x0 ∧ t.pc = 0x1004) := by decide

-- V40-12
theorem test_addi :
    ends (hart dataInt 0x80030293 [(6, 0x0)] [])
      (fun t => t.readX 5 = 0xFFFFFFFFFFFFF800 ∧ t.pc = 0x1004) := by decide

-- V40-16
theorem test_addiw :
    ends (hart dataInt 0x0013029B [(6, 0x7FFFFFFF)] [])
      (fun t => t.readX 5 = 0xFFFFFFFF80000000 ∧ t.pc = 0x1004) := by decide

-- V40-19
theorem test_and :
    ends (hart dataInt 0x007372B3 [(6, 0xFF00FF00FF00FF00), (7, 0xFF00FF00FF00FF0)] [])
      (fun t => t.readX 5 = 0xF000F000F000F00 ∧ t.pc = 0x1004) := by decide

-- V40-22
theorem test_andi :
    ends (hart dataInt 0xF0037293 [(6, 0x123456789ABCDEF0)] [])
      (fun t => t.readX 5 = 0x123456789ABCDE00 ∧ t.pc = 0x1004) := by decide

-- V40-35
theorem test_auipc :
    ends (hart dataInt 0x80000297 [] [])
      (fun t => t.readX 5 = 0xFFFFFFFF80001000 ∧ t.pc = 0x1004) := by decide

-- V40-28
theorem test_lui : ends (hart dataInt 0x123452B7 [] []) (fun t => t.readX 5 = 0x12345000 ∧ t.pc = 0x1004) := by decide

-- V40-20
theorem test_or :
    ends (hart dataInt 0x007362B3 [(6, 0xFF00FF00FF00FF00), (7, 0xFF00FF00FF00FF0)] [])
      (fun t => t.readX 5 = 0xFFF0FFF0FFF0FFF0 ∧ t.pc = 0x1004) := by decide

-- V40-24
theorem test_ori :
    ends (hart dataInt 0x80036293 [(6, 0x1000)] [])
      (fun t => t.readX 5 = 0xFFFFFFFFFFFFF800 ∧ t.pc = 0x1004) := by decide

-- V40-37
theorem test_sll :
    ends (hart dataInt 0x007312B3 [(6, 0x1), (7, 0x3F)] [])
      (fun t => t.readX 5 = 0x8000000000000000 ∧ t.pc = 0x1004) := by decide

-- V40-45
theorem test_sllw :
    ends (hart dataInt 0x007312BB [(6, 0x1), (7, 0x1F)] [])
      (fun t => t.readX 5 = 0xFFFFFFFF80000000 ∧ t.pc = 0x1004) := by decide

-- V40-56
theorem test_slli : ends (hart dataInt 0x00031293 [(6, 0x123)] []) (fun t => t.readX 5 = 0x123 ∧ t.pc = 0x1004) := by decide

-- V40-62
theorem test_slliw :
    ends (hart dataInt 0x01F3129B [(6, 0x1)] [])
      (fun t => t.readX 5 = 0xFFFFFFFF80000000 ∧ t.pc = 0x1004) := by decide

-- V40-70
theorem test_slt :
    ends (hart dataInt 0x007322B3 [(6, 0x8000000000000000), (7, 0x7FFFFFFFFFFFFFFF)] [])
      (fun t => t.readX 5 = 0x1 ∧ t.pc = 0x1004) := by decide

-- V40-76
theorem test_slti :
    ends (hart dataInt 0xFFC32293 [(6, 0xFFFFFFFFFFFFFFFB)] [])
      (fun t => t.readX 5 = 0x1 ∧ t.pc = 0x1004) := by decide

-- V40-80
theorem test_sltiu : ends (hart dataInt 0x00133293 [(6, 0x7)] []) (fun t => t.readX 5 = 0x0 ∧ t.pc = 0x1004) := by decide

-- V40-72
theorem test_sltu :
    ends (hart dataInt 0x007332B3 [(6, 0xFFFFFFFFFFFFFFFF), (7, 0x1)] [])
      (fun t => t.readX 5 = 0x0 ∧ t.pc = 0x1004) := by decide

-- V40-43
theorem test_sra :
    ends (hart dataInt 0x407352B3 [(6, 0x8000000000000000), (7, 0x1)] [])
      (fun t => t.readX 5 = 0xC000000000000000 ∧ t.pc = 0x1004) := by decide

-- V40-52
theorem test_sraw :
    ends (hart dataInt 0x407352BB [(6, 0x80000000), (7, 0x4)] [])
      (fun t => t.readX 5 = 0xFFFFFFFFF8000000 ∧ t.pc = 0x1004) := by decide

-- V40-61
theorem test_srai :
    ends (hart dataInt 0x43F35293 [(6, 0x7FFFFFFFFFFFFFFF)] [])
      (fun t => t.readX 5 = 0x0 ∧ t.pc = 0x1004) := by decide

-- V40-67
theorem test_sraiw :
    ends (hart dataInt 0x4083529B [(6, 0x123456787FFFFFFF)] [])
      (fun t => t.readX 5 = 0x7FFFFF ∧ t.pc = 0x1004) := by decide

-- V40-41
theorem test_srl :
    ends (hart dataInt 0x007352B3 [(6, 0x8000000000000000), (7, 0x40)] [])
      (fun t => t.readX 5 = 0x8000000000000000 ∧ t.pc = 0x1004) := by decide

-- V40-50
theorem test_srlw :
    ends (hart dataInt 0x007352BB [(6, 0x12345678F0000000), (7, 0x4)] [])
      (fun t => t.readX 5 = 0xF000000 ∧ t.pc = 0x1004) := by decide

-- V40-57
theorem test_srli :
    ends (hart dataInt 0x03F35293 [(6, 0x8000000000000000)] [])
      (fun t => t.readX 5 = 0x1 ∧ t.pc = 0x1004) := by decide

-- V40-65
theorem test_srliw :
    ends (hart dataInt 0x0003529B [(6, 0x80000000)] [])
      (fun t => t.readX 5 = 0xFFFFFFFF80000000 ∧ t.pc = 0x1004) := by decide

-- V40-8
theorem test_sub :
    ends (hart dataInt 0x407302B3 [(6, 0x8000000000000000), (7, 0x1)] [])
      (fun t => t.readX 5 = 0x7FFFFFFFFFFFFFFF ∧ t.pc = 0x1004) := by decide

-- V40-10
theorem test_subw :
    ends (hart dataInt 0x407302BB [(6, 0xABCDEF0000000000), (7, 0x1)] [])
      (fun t => t.readX 5 = 0xFFFFFFFFFFFFFFFF ∧ t.pc = 0x1004) := by decide

-- V40-21
theorem test_xor :
    ends (hart dataInt 0x007342B3 [(6, 0xFF00FF00FF00FF00), (7, 0xFF00FF00FF00FF0)] [])
      (fun t => t.readX 5 = 0xF0F0F0F0F0F0F0F0 ∧ t.pc = 0x1004) := by decide

-- V40-26
theorem test_xori :
    ends (hart dataInt 0xFFF34293 [(6, 0xFFFF0000)] [])
      (fun t => t.readX 5 = 0xFFFFFFFF0000FFFF ∧ t.pc = 0x1004) := by decide

-- ==== RV64F/RV64D arithmetic and precision conversions (46_fp_arith_convert.md) ====

-- V46-26
theorem test_faddS :
    ends { hart dataInt 0x003170D3 [] [(2, 0xFFFFFFFF3F800000), (3, 0xFFFFFFFF33800000)] with fcsr := 0x60 }
      (fun t => t.readF 1 = 0xFFFFFFFF3F800001 ∧ t.fcsr = 0x61 ∧ t.pc = 0x1004) := by decide

-- V30-57
theorem test_faddS_raises :
    ends (hart dataInt 0x003150D3 [] [(2, 0xFFFFFFFF3F800000), (3, 0xFFFFFFFF40000000)])
      (fun t => t.trap = some (.illegalInstruction 0x003150D3) ∧ t.pc = 0x1000) := by decide

-- V46-34
theorem test_faddD :
    ends (hart dataInt 0x023130D3 [] [(2, 0x3FF0000000000000), (3, 0x3CA0000000000000)])
      (fun t => t.readF 1 = 0x3FF0000000000001 ∧ t.fcsr = 0x1 ∧ t.pc = 0x1004) := by decide

-- V46-42
theorem test_fsubS :
    ends (hart dataInt 0x083100D3 [] [(2, 0xFFFFFFFF7F800000), (3, 0xFFFFFFFF7F800000)])
      (fun t => t.readF 1 = 0xFFFFFFFF7FC00000 ∧ t.fcsr = 0x10 ∧ t.pc = 0x1004) := by decide

-- V46-49
theorem test_fsubD :
    ends (hart dataInt 0x0A3100D3 [] [(2, 0x7FF0000000000000), (3, 0x7FF0000000000000)])
      (fun t => t.readF 1 = 0x7FF8000000000000 ∧ t.fcsr = 0x10 ∧ t.pc = 0x1004) := by decide

-- V46-64
theorem test_fmulS :
    ends (hart dataInt 0x103100D3 [] [(2, 0xFFFFFFFF3F800001), (3, 0xFFFFFFFF3F800001)])
      (fun t => t.readF 1 = 0xFFFFFFFF3F800002 ∧ t.fcsr = 0x1 ∧ t.pc = 0x1004) := by decide

-- V46-72
theorem test_fmulD :
    ends (hart dataInt 0x123100D3 [] [(2, 0x3FF0000000000001), (3, 0x3FF0000000000001)])
      (fun t => t.readF 1 = 0x3FF0000000000002 ∧ t.fcsr = 0x1 ∧ t.pc = 0x1004) := by decide

-- V46-73
theorem test_fdivS :
    ends (hart dataInt 0x183100D3 [] [(2, 0xFFFFFFFF3F800000), (3, 0xFFFFFFFF40400000)])
      (fun t => t.readF 1 = 0xFFFFFFFF3EAAAAAB ∧ t.fcsr = 0x1 ∧ t.pc = 0x1004) := by decide

-- V46-85
theorem test_fdivD :
    ends (hart dataInt 0x1A3100D3 [] [(2, 0x3FF0000000000000), (3, 0x4008000000000000)])
      (fun t => t.readF 1 = 0x3FD5555555555555 ∧ t.fcsr = 0x1 ∧ t.pc = 0x1004) := by decide

-- V46-99
theorem test_fsqrtS :
    ends (hart dataInt 0x580100D3 [] [(2, 0xFFFFFFFF00000001)])
      (fun t => t.readF 1 = 0xFFFFFFFF1A3504F3 ∧ t.fcsr = 0x1 ∧ t.pc = 0x1004) := by decide

-- V46-102
theorem test_fsqrtD :
    ends (hart dataInt 0x5A0100D3 [] [(2, 0x4000000000000000)])
      (fun t => t.readF 1 = 0x3FF6A09E667F3BCD ∧ t.fcsr = 0x1 ∧ t.pc = 0x1004) := by decide

-- V46-129
theorem test_fmaddS :
    ends (hart dataInt 0x203130C3 [] [(2, 0xFFFFFFFF3F800000), (3, 0xFFFFFFFF33800000), (4, 0xFFFFFFFF3F800000)])
      (fun t => t.readF 1 = 0xFFFFFFFF3F800001 ∧ t.fcsr = 0x1 ∧ t.pc = 0x1004) := by decide

-- V46-138
theorem test_fmaddD :
    ends (hart dataInt 0x223100C3 [] [(2, 0x7FF0000000000000), (3, 0x0), (4, 0x7FF8000000000000)])
      (fun t => t.readF 1 = 0x7FF8000000000000 ∧ t.fcsr = 0x10 ∧ t.pc = 0x1004) := by decide

-- V46-123
theorem test_fmsubS :
    ends (hart dataInt 0x203100C7 [] [(2, 0xFFFFFFFF7F800000), (3, 0xFFFFFFFF3F800000), (4, 0xFFFFFFFF7F800000)])
      (fun t => t.readF 1 = 0xFFFFFFFF7FC00000 ∧ t.fcsr = 0x10 ∧ t.pc = 0x1004) := by decide

-- V46-140
theorem test_fmsubD :
    ends (hart dataInt 0x223100C7 [] [(2, 0x7FF0000000000000), (3, 0x3FF0000000000000), (4, 0x7FF0000000000000)])
      (fun t => t.readF 1 = 0x7FF8000000000000 ∧ t.fcsr = 0x10 ∧ t.pc = 0x1004) := by decide

-- V46-131
theorem test_fnmaddS :
    ends (hart dataInt 0x203120CF [] [(2, 0xFFFFFFFF3F800000), (3, 0xFFFFFFFF33800000), (4, 0xFFFFFFFF3F800000)])
      (fun t => t.readF 1 = 0xFFFFFFFFBF800001 ∧ t.fcsr = 0x1 ∧ t.pc = 0x1004) := by decide

-- V46-135
theorem test_fnmaddD :
    ends (hart dataInt 0x223100CF [] [(2, 0x4000000000000000), (3, 0x4008000000000000), (4, 0x3FF0000000000000)])
      (fun t => t.readF 1 = 0xC01C000000000000 ∧ t.pc = 0x1004) := by decide

-- V46-111
theorem test_fnmsubS :
    ends (hart dataInt 0x203100CB [] [(2, 0xFFFFFFFF40000000), (3, 0xFFFFFFFF40400000), (4, 0xFFFFFFFF3F800000)])
      (fun t => t.readF 1 = 0xFFFFFFFFC0A00000 ∧ t.pc = 0x1004) := by decide

-- V46-136
theorem test_fnmsubD :
    ends (hart dataInt 0x223100CB [] [(2, 0x4000000000000000), (3, 0x4008000000000000), (4, 0x3FF0000000000000)])
      (fun t => t.readF 1 = 0xC014000000000000 ∧ t.pc = 0x1004) := by decide

-- V46-143
theorem test_fcvtSD :
    ends (hart dataInt 0x401100D3 [] [(2, 0x400921FB54442D18)])
      (fun t => t.readF 1 = 0xFFFFFFFF40490FDB ∧ t.fcsr = 0x1 ∧ t.pc = 0x1004) := by decide

-- V46-160
theorem test_fcvtDS :
    ends (hart dataInt 0x420100D3 [] [(2, 0xFFFFFFFF7F800001)])
      (fun t => t.readF 1 = 0x7FF8000000000000 ∧ t.fcsr = 0x10 ∧ t.pc = 0x1004) := by decide

-- ==== CSR access, environment call and break, fences (43_system.md) ====

-- V43-9
theorem test_csrrw :
    ends { hart dataInt 0x003312F3 [(6, 0xFFFFFFFFFFFFFFFF)] [] with fcsr := 0x65 }
      (fun t => t.readX 5 = 0x65 ∧ t.fcsr = 0xFF ∧ t.pc = 0x1004) := by decide

-- V43-13
theorem test_csrrs :
    ends { hart dataInt 0x001322F3 [(6, 0x1A)] [] with fcsr := 0x65 }
      (fun t => t.readX 5 = 0x5 ∧ t.fcsr = 0x7F ∧ t.pc = 0x1004) := by decide

-- V30-60
theorem test_csrrs_raises :
    ends (hart dataInt 0x30002573 [] [])
      (fun t => t.trap = some (.illegalInstruction 0x30002573) ∧ t.pc = 0x1000) := by decide

-- V43-19
theorem test_csrrc :
    ends { hart dataInt 0x003332F3 [(6, 0xFFFFFFFFFFFFFFFF)] [] with fcsr := 0x65 }
      (fun t => t.readX 5 = 0x65 ∧ t.fcsr = 0x0 ∧ t.pc = 0x1004) := by decide

-- V43-24
theorem test_csrrwi :
    ends { hart dataInt 0x003FD2F3 [] [] with fcsr := 0x65 }
      (fun t => t.readX 5 = 0x65 ∧ t.fcsr = 0x1F ∧ t.pc = 0x1004) := by decide

-- V43-25
theorem test_csrrsi :
    ends { hart dataInt 0x001862F3 [] [] with fcsr := 0x65 }
      (fun t => t.readX 5 = 0x5 ∧ t.fcsr = 0x75 ∧ t.pc = 0x1004) := by decide

-- V43-27
theorem test_csrrci :
    ends { hart dataInt 0x001FF2F3 [] [] with fcsr := 0x65 }
      (fun t => t.readX 5 = 0x5 ∧ t.fcsr = 0x60 ∧ t.pc = 0x1004) := by decide

-- V43-34
theorem test_csrrci_raises :
    ends { hart dataInt 0x004072F3 [] [] with fcsr := 0x65 }
      (fun t => t.trap = some (.illegalInstruction 0x004072F3) ∧ t.pc = 0x1000) := by decide

-- V43-8
theorem test_ecall :
    ends { hart dataInt 0x00000073 [] [] with resv := some ⟨0x2000, 4⟩ }
      (fun t => t.trap = some .environmentCall ∧ t.pc = 0x1000) := by decide

-- V43-7
theorem test_ebreak :
    ends (hart dataInt 0x00100073 [] [])
      (fun t => t.trap = some (.breakpoint 0x1000) ∧ t.pc = 0x1000) := by decide

-- V43-1
theorem test_fence : ends (hart dataInt 0x0FF0000F [] []) (fun t => t.pc = 0x1004) := by decide

-- V43-5
theorem test_fenceI : ends (hart dataInt 0x0000100F [] []) (fun t => t.pc = 0x1004) := by decide

-- ==== RV64I control transfer (41_control_transfer.md) ====

-- V41-1
theorem test_beq : ends (hart dataInt 0x00730863 [(6, 0x5), (7, 0x5)] []) (fun t => t.pc = 0x1010) := by decide

-- V41-4
theorem test_bne : ends (hart dataInt 0x00731863 [(6, 0x5), (7, 0x6)] []) (fun t => t.pc = 0x1010) := by decide

-- V41-22
theorem test_bne_raises :
    ends (hart dataInt 0xFE731FE3 [(6, 0x5), (7, 0x6)] [])
      (fun t => t.trap = some (.instructionAddressMisaligned 0xFFE) ∧ t.pc = 0x1000) := by decide

-- V41-6
theorem test_blt :
    ends (hart dataInt 0x00734863 [(6, 0xFFFFFFFFFFFFFFFF), (7, 0x1)] [])
      (fun t => t.pc = 0x1010) := by decide

-- V41-11
theorem test_bge :
    ends (hart dataInt 0x00735863 [(6, 0x7FFFFFFFFFFFFFFF), (7, 0x8000000000000000)] [])
      (fun t => t.pc = 0x1010) := by decide

-- V41-12
theorem test_bltu :
    ends (hart dataInt 0x00736863 [(6, 0xFFFFFFFFFFFFFFFF), (7, 0x1)] [])
      (fun t => t.pc = 0x1004) := by decide

-- V41-14
theorem test_bgeu :
    ends (hart dataInt 0x00737863 [(6, 0xFFFFFFFFFFFFFFFF), (7, 0x1)] [])
      (fun t => t.pc = 0x1010) := by decide

-- V41-24
theorem test_jal : ends (hart dataInt 0x100000EF [] []) (fun t => t.readX 1 = 0x1004 ∧ t.pc = 0x1100) := by decide

-- V41-26
theorem test_jal_raises :
    ends (hart dataInt 0x002000EF [(1, 0x7777)] [])
      (fun t => t.trap = some (.instructionAddressMisaligned 0x1002) ∧ t.pc = 0x1000) := by decide

-- V41-31
theorem test_jalr :
    ends (hart dataInt 0x000300E7 [(6, 0x2001)] [])
      (fun t => t.readX 1 = 0x1004 ∧ t.pc = 0x2000) := by decide

-- V41-32
theorem test_jalr_raises :
    ends (hart dataInt 0x000300E7 [(6, 0x2002), (1, 0x7777)] [])
      (fun t => t.trap = some (.instructionAddressMisaligned 0x2002) ∧ t.pc = 0x1000) := by decide

-- ==== RV64I loads and stores (42_load_store.md) ====

-- V42-1
theorem test_lb :
    ends (hart dataInt 0x00030283 [(6, 0x2008)] [])
      (fun t => t.readX 5 = 0xFFFFFFFFFFFFFF80 ∧ t.pc = 0x1004) := by decide

-- V42-2
theorem test_lbu : ends (hart dataInt 0x00034283 [(6, 0x2008)] []) (fun t => t.readX 5 = 0x80 ∧ t.pc = 0x1004) := by decide

-- V42-5
theorem test_lh : ends (hart dataInt 0x00031283 [(6, 0x2008)] []) (fun t => t.readX 5 = 0x3280 ∧ t.pc = 0x1004) := by decide

-- V42-17
theorem test_lh_raises :
    ends (hart dataInt 0x00131283 [(6, 0x2008)] [])
      (fun t => t.trap = some (.loadAddressMisaligned 0x2009) ∧ t.pc = 0x1000) := by decide

-- V42-7
theorem test_lhu : ends (hart dataInt 0x00635283 [(6, 0x2008)] []) (fun t => t.readX 5 = 0xFEDC ∧ t.pc = 0x1004) := by decide

-- V42-9
theorem test_lw :
    ends (hart dataInt 0x00032283 [(6, 0x2008)] [])
      (fun t => t.readX 5 = 0x76543280 ∧ t.pc = 0x1004) := by decide

-- V42-19
theorem test_lw_raises :
    ends (hart dataInt 0x00232283 [(6, 0x2008)] [])
      (fun t => t.trap = some (.loadAddressMisaligned 0x200A) ∧ t.pc = 0x1000) := by decide

-- V42-11
theorem test_lwu :
    ends (hart dataInt 0x00436283 [(6, 0x2008)] [])
      (fun t => t.readX 5 = 0xFEDCBA98 ∧ t.pc = 0x1004) := by decide

-- V42-27
theorem test_ld :
    ends (hart dataInt 0x7FF33283 [(6, 0x1809)] [])
      (fun t => t.readX 5 = 0xFEDCBA9876543280 ∧ t.pc = 0x1004) := by decide

-- V42-21
theorem test_ld_raises :
    ends (hart dataInt 0x00433283 [(6, 0x2008)] [])
      (fun t => t.trap = some (.loadAddressMisaligned 0x200C) ∧ t.pc = 0x1000) := by decide

-- V42-28
theorem test_sb :
    ends (hart dataInt 0x00730023 [(6, 0x2008), (7, 0x123456789ABCDEF)] [])
      (fun t => t.mem.readLE 0x2008 1 = some 0xEF ∧ t.pc = 0x1004) := by decide

-- V42-30
theorem test_sh :
    ends (hart dataInt 0x00731123 [(6, 0x2008), (7, 0x123456789ABCDEF)] [])
      (fun t => t.mem.readLE 0x200A 2 = some 0xCDEF ∧ t.pc = 0x1004) := by decide

-- V42-31
theorem test_sw :
    ends (hart dataInt 0x00732223 [(6, 0x2008), (7, 0x123456789ABCDEF)] [])
      (fun t => t.mem.readLE 0x200C 4 = some 0x89ABCDEF ∧ t.pc = 0x1004) := by decide

-- V42-38
theorem test_sw_raises :
    ends (hart dataInt 0x00732123 [(6, 0x2008), (7, 0x123456789ABCDEF)] [])
      (fun t => t.trap = some (.storeAMOAddressMisaligned 0x200A) ∧ t.pc = 0x1000) := by decide

-- V42-32
theorem test_sd :
    ends (hart dataInt 0x00733023 [(6, 0x2008), (7, 0x123456789ABCDEF)] [])
      (fun t => t.mem.readLE 0x2008 8 = some 0x123456789ABCDEF ∧ t.pc = 0x1004) := by decide

-- V42-39
theorem test_sd_raises :
    ends (hart dataInt 0x00733223 [(6, 0x2008), (7, 0x123456789ABCDEF)] [])
      (fun t => t.trap = some (.storeAMOAddressMisaligned 0x200C) ∧ t.pc = 0x1000) := by decide

-- ==== RV64M (44_multiply_divide.md) ====

-- V44-5
theorem test_mul :
    ends (hart dataInt 0x027302B3 [(6, 0x123456789ABCDEF0), (7, 0xFEDCBA987654321)] [])
      (fun t => t.readX 5 = 0x2236D88FE5618CF0 ∧ t.pc = 0x1004) := by decide

-- V44-18
theorem test_mulw :
    ends (hart dataInt 0x027302BB [(6, 0x7FFFFFFF), (7, 0x2)] [])
      (fun t => t.readX 5 = 0xFFFFFFFFFFFFFFFE ∧ t.pc = 0x1004) := by decide

-- V44-9
theorem test_mulh :
    ends (hart dataInt 0x027312B3 [(6, 0x7FFFFFFFFFFFFFFF), (7, 0x7FFFFFFFFFFFFFFF)] [])
      (fun t => t.readX 5 = 0x3FFFFFFFFFFFFFFF ∧ t.pc = 0x1004) := by decide

-- V44-11
theorem test_mulhu :
    ends (hart dataInt 0x027332B3 [(6, 0xFFFFFFFFFFFFFFFF), (7, 0xFFFFFFFFFFFFFFFF)] [])
      (fun t => t.readX 5 = 0xFFFFFFFFFFFFFFFE ∧ t.pc = 0x1004) := by decide

-- V44-16
theorem test_mulhsu :
    ends (hart dataInt 0x027322B3 [(6, 0x8000000000000000), (7, 0xFFFFFFFFFFFFFFFF)] [])
      (fun t => t.readX 5 = 0x8000000000000000 ∧ t.pc = 0x1004) := by decide

-- V44-23
theorem test_div :
    ends (hart dataInt 0x027342B3 [(6, 0xFFFFFFFFFFFFFFF9), (7, 0x2)] [])
      (fun t => t.readX 5 = 0xFFFFFFFFFFFFFFFD ∧ t.pc = 0x1004) := by decide

-- V44-58
theorem test_divw :
    ends (hart dataInt 0x027342BB [(6, 0x80000000), (7, 0xFFFFFFFF)] [])
      (fun t => t.readX 5 = 0xFFFFFFFF80000000 ∧ t.pc = 0x1004) := by decide

-- V44-41
theorem test_divu :
    ends (hart dataInt 0x027352B3 [(6, 0xFFFFFFFFFFFFFFF9), (7, 0x2)] [])
      (fun t => t.readX 5 = 0x7FFFFFFFFFFFFFFC ∧ t.pc = 0x1004) := by decide

-- V44-68
theorem test_divuw :
    ends (hart dataInt 0x027352BB [(6, 0xFFFFFFF9), (7, 0x2)] [])
      (fun t => t.readX 5 = 0x7FFFFFFC ∧ t.pc = 0x1004) := by decide

-- V44-36
theorem test_rem :
    ends (hart dataInt 0x027362B3 [(6, 0xFFFFFFFFFFFFFFF9), (7, 0x0)] [])
      (fun t => t.readX 5 = 0xFFFFFFFFFFFFFFF9 ∧ t.pc = 0x1004) := by decide

-- V44-65
theorem test_remw :
    ends (hart dataInt 0x027362BB [(6, 0x80000001), (7, 0x0)] [])
      (fun t => t.readX 5 = 0xFFFFFFFF80000001 ∧ t.pc = 0x1004) := by decide

-- V44-50
theorem test_remu :
    ends (hart dataInt 0x027372B3 [(6, 0xFFFFFFFFFFFFFFF9), (7, 0x0)] [])
      (fun t => t.readX 5 = 0xFFFFFFFFFFFFFFF9 ∧ t.pc = 0x1004) := by decide

-- V44-78
theorem test_remuw :
    ends (hart dataInt 0x027372BB [(6, 0x80000001), (7, 0x0)] [])
      (fun t => t.readX 5 = 0xFFFFFFFF80000001 ∧ t.pc = 0x1004) := by decide

-- ==== RV64A (47_atomic.md) ====

-- V47-36
theorem test_amoaddW :
    ends { hart dataAtomic 0x007322AF [(6, 0x2000), (7, 0x100000003)] [] with resv := some ⟨0x2000, 4⟩ }
      (fun t => t.readX 5 = 0xFFFFFFFF80000005 ∧ t.mem.readLE 0x2000 4 = some 0x80000008 ∧ t.pc = 0x1004) := by decide

-- V47-29
theorem test_amoaddD :
    ends (hart dataAtomic 0x0063332F [(6, 0x2000)] [])
      (fun t => t.readX 6 = 0xFFFFFFFF80000005 ∧ t.mem.readLE 0x2000 8 = some 0xFFFFFFFF80002005 ∧ t.pc = 0x1004) := by decide

-- V47-5
theorem test_amoandW :
    ends (hart dataAtomic 0x607322AF [(6, 0x2000), (7, 0x100000003)] [])
      (fun t => t.readX 5 = 0xFFFFFFFF80000005 ∧ t.mem.readLE 0x2000 4 = some 0x1 ∧ t.pc = 0x1004) := by decide

-- V47-6
theorem test_amoandD :
    ends (hart dataAtomic 0x607332AF [(6, 0x2000), (7, 0x100000003)] [])
      (fun t => t.readX 5 = 0xFFFFFFFF80000005 ∧ t.mem.readLE 0x2000 8 = some 0x100000001 ∧ t.pc = 0x1004) := by decide

-- V47-11
theorem test_amomaxW :
    ends (hart dataAtomic 0xA07322AF [(6, 0x2000), (7, 0x100000003)] [])
      (fun t => t.readX 5 = 0xFFFFFFFF80000005 ∧ t.mem.readLE 0x2000 4 = some 0x3 ∧ t.pc = 0x1004) := by decide

-- V47-12
theorem test_amomaxD :
    ends (hart dataAtomic 0xA07332AF [(6, 0x2000), (7, 0x100000003)] [])
      (fun t => t.readX 5 = 0xFFFFFFFF80000005 ∧ t.mem.readLE 0x2000 8 = some 0x100000003 ∧ t.pc = 0x1004) := by decide

-- V47-13
theorem test_amomaxuW :
    ends (hart dataAtomic 0xE07322AF [(6, 0x2000), (7, 0x100000003)] [])
      (fun t => t.readX 5 = 0xFFFFFFFF80000005 ∧ t.mem.readLE 0x2000 4 = some 0x80000005 ∧ t.pc = 0x1004) := by decide

-- V47-14
theorem test_amomaxuD :
    ends (hart dataAtomic 0xE07332AF [(6, 0x2000), (7, 0x100000003)] [])
      (fun t => t.readX 5 = 0xFFFFFFFF80000005 ∧ t.mem.readLE 0x2000 8 = some 0xFFFFFFFF80000005 ∧ t.pc = 0x1004) := by decide

-- V47-15
theorem test_amominW :
    ends (hart dataAtomic 0x807322AF [(6, 0x2000), (7, 0x100000003)] [])
      (fun t => t.readX 5 = 0xFFFFFFFF80000005 ∧ t.mem.readLE 0x2000 4 = some 0x80000005 ∧ t.pc = 0x1004) := by decide

-- V47-16
theorem test_amominD :
    ends (hart dataAtomic 0x807332AF [(6, 0x2000), (7, 0x100000003)] [])
      (fun t => t.readX 5 = 0xFFFFFFFF80000005 ∧ t.mem.readLE 0x2000 8 = some 0xFFFFFFFF80000005 ∧ t.pc = 0x1004) := by decide

-- V47-17
theorem test_amominuW :
    ends (hart dataAtomic 0xC07322AF [(6, 0x2000), (7, 0x100000003)] [])
      (fun t => t.readX 5 = 0xFFFFFFFF80000005 ∧ t.mem.readLE 0x2000 4 = some 0x3 ∧ t.pc = 0x1004) := by decide

-- V47-18
theorem test_amominuD :
    ends (hart dataAtomic 0xC07332AF [(6, 0x2000), (7, 0x100000003)] [])
      (fun t => t.readX 5 = 0xFFFFFFFF80000005 ∧ t.mem.readLE 0x2000 8 = some 0x100000003 ∧ t.pc = 0x1004) := by decide

-- V47-30
theorem test_amoorW :
    ends { hart dataAtomic 0x407322AF [(6, 0x2000), (7, 0x100000003)] [] with resv := some ⟨0x2000, 4⟩ }
      (fun t => t.readX 5 = 0xFFFFFFFF80000005 ∧ t.mem.readLE 0x2000 4 = some 0x80000007 ∧ t.pc = 0x1004) := by decide

-- V47-35
theorem test_amoorW_raises :
    ends (hart dataAtomic 0x407322AF [(6, 0x3002), (7, 0x100000003)] [])
      (fun t => t.trap = some (.storeAMOAddressMisaligned 0x3002) ∧ t.pc = 0x1000) := by decide

-- V47-8
theorem test_amoorD :
    ends (hart dataAtomic 0x407332AF [(6, 0x2000), (7, 0x100000003)] [])
      (fun t => t.readX 5 = 0xFFFFFFFF80000005 ∧ t.mem.readLE 0x2000 8 = some 0xFFFFFFFF80000007 ∧ t.pc = 0x1004) := by decide

-- V47-1
theorem test_amoswapW :
    ends (hart dataAtomic 0x087322AF [(6, 0x2000), (7, 0x100000003)] [])
      (fun t => t.readX 5 = 0xFFFFFFFF80000005 ∧ t.mem.readLE 0x2000 4 = some 0x3 ∧ t.pc = 0x1004) := by decide

-- V47-2
theorem test_amoswapD :
    ends (hart dataAtomic 0x087332AF [(6, 0x2000), (7, 0x100000003)] [])
      (fun t => t.readX 5 = 0xFFFFFFFF80000005 ∧ t.mem.readLE 0x2000 8 = some 0x100000003 ∧ t.pc = 0x1004) := by decide

-- V47-34
theorem test_amoswapD_raises :
    ends (hart dataAtomic 0x087332AF [(6, 0x4000), (7, 0x100000003)] [])
      (fun t => t.trap = some (.storeAMOAccessFault 0x4000) ∧ t.pc = 0x1000) := by decide

-- V47-9
theorem test_amoxorW :
    ends (hart dataAtomic 0x207322AF [(6, 0x2000), (7, 0x100000003)] [])
      (fun t => t.readX 5 = 0xFFFFFFFF80000005 ∧ t.mem.readLE 0x2000 4 = some 0x80000006 ∧ t.pc = 0x1004) := by decide

-- V47-10
theorem test_amoxorD :
    ends (hart dataAtomic 0x207332AF [(6, 0x2000), (7, 0x100000003)] [])
      (fun t => t.readX 5 = 0xFFFFFFFF80000005 ∧ t.mem.readLE 0x2000 8 = some 0xFFFFFFFE80000006 ∧ t.pc = 0x1004) := by decide

-- V47-37
theorem test_lrW :
    ends (hart dataAtomic 0x100322AF [(6, 0x2000)] [])
      (fun t => t.readX 5 = 0xFFFFFFFF80000005 ∧ t.resv = some ⟨0x2000, 4⟩ ∧ t.pc = 0x1004) := by decide

-- V47-39
theorem test_lrD :
    ends (hart dataAtomic 0x100332AF [(6, 0x2000)] [])
      (fun t => t.readX 5 = 0xFFFFFFFF80000005 ∧ t.resv = some ⟨0x2000, 8⟩ ∧ t.pc = 0x1004) := by decide

-- V47-41
theorem test_lrD_raises :
    ends (hart dataAtomic 0x100332AF [(6, 0x2004)] [])
      (fun t => t.trap = some (.loadAddressMisaligned 0x2004) ∧ t.pc = 0x1000) := by decide

-- V47-45
theorem test_scW :
    ends { hart dataAtomic 0x187322AF [(6, 0x2000), (7, 0x100000003), (5, 0x55)] [] with resv := some ⟨0x2000, 4⟩ }
      (fun t => t.readX 5 = 0x0 ∧ t.mem.readLE 0x2000 4 = some 0x3 ∧ t.resv = none ∧ t.pc = 0x1004) := by decide

-- V47-49
theorem test_scD :
    ends { hart dataAtomic 0x187332AF [(6, 0x2000), (7, 0x100000003), (5, 0x55)] [] with resv := some ⟨0x2000, 8⟩ }
      (fun t => t.readX 5 = 0x0 ∧ t.mem.readLE 0x2000 8 = some 0x100000003 ∧ t.resv = none ∧ t.pc = 0x1004) := by decide

-- ==== RV64F/RV64D loads, stores, sign injection, min/max, compare, classify, moves (45_fp_move_compare.md) ====

-- V45-3
theorem test_flw :
    ends (hart dataFloat 0x00432087 [(6, 0x2000)] [])
      (fun t => t.readF 1 = 0xFFFFFFFF400921FB ∧ t.pc = 0x1004) := by decide

-- V45-9
theorem test_fld :
    ends (hart dataFloat 0xFF833007 [(6, 0x2008)] [])
      (fun t => t.readF 0 = 0x400921FB54442D18 ∧ t.pc = 0x1004) := by decide

-- V45-10
theorem test_fsw :
    ends (hart dataFloat 0x00232227 [(6, 0x2000)] [(2, 0x123456783F800000)])
      (fun t => t.mem.readLE 0x2004 4 = some 0x3F800000 ∧ t.pc = 0x1004) := by decide

-- V45-11
theorem test_fsw_raises :
    ends (hart dataFloat 0x00232127 [(6, 0x2000)] [(2, 0xFFFFFFFF3F800000)])
      (fun t => t.trap = some (.storeAMOAddressMisaligned 0x2002) ∧ t.pc = 0x1000) := by decide

-- V45-14
theorem test_fsd :
    ends (hart dataFloat 0x00233027 [(6, 0x2000)] [(2, 0xFFFFFFFF3F800000)])
      (fun t => t.mem.readLE 0x2000 8 = some 0xFFFFFFFF3F800000 ∧ t.pc = 0x1004) := by decide

-- V45-17
theorem test_fsgnjS :
    ends (hart dataFloat 0x203100D3 [] [(2, 0xFFFFFFFFBFC00000), (3, 0xFFFFFFFF3F800000)])
      (fun t => t.readF 1 = 0xFFFFFFFF3FC00000 ∧ t.pc = 0x1004) := by decide

-- V45-21
theorem test_fsgnjD :
    ends (hart dataFloat 0x223100D3 [] [(2, 0x3FF8000000000000), (3, 0x8000000000000000)])
      (fun t => t.readF 1 = 0xBFF8000000000000 ∧ t.pc = 0x1004) := by decide

-- V45-23
theorem test_fsgnjnS :
    ends (hart dataFloat 0x203110D3 [] [(2, 0xFFFFFFFF3FC00000), (3, 0xFFFFFFFF3FC00000)])
      (fun t => t.readF 1 = 0xFFFFFFFFBFC00000 ∧ t.pc = 0x1004) := by decide

-- V45-26
theorem test_fsgnjnD :
    ends (hart dataFloat 0x223110D3 [] [(2, 0x3FF8000000000000), (3, 0x3FF8000000000000)])
      (fun t => t.readF 1 = 0xBFF8000000000000 ∧ t.pc = 0x1004) := by decide

-- V45-29
theorem test_fsgnjxS :
    ends (hart dataFloat 0x203120D3 [] [(2, 0xFFFFFFFFBFC00000), (3, 0xFFFFFFFFBFC00000)])
      (fun t => t.readF 1 = 0xFFFFFFFF3FC00000 ∧ t.pc = 0x1004) := by decide

-- V45-34
theorem test_fsgnjxD :
    ends (hart dataFloat 0x223120D3 [] [(2, 0xFFF8000000000123), (3, 0xFFF8000000000123)])
      (fun t => t.readF 1 = 0x7FF8000000000123 ∧ t.pc = 0x1004) := by decide

-- V45-44
theorem test_fminS :
    ends (hart dataFloat 0x283100D3 [] [(2, 0xFFFFFFFF7F800001), (3, 0xFFFFFFFF7FC00000)])
      (fun t => t.readF 1 = 0xFFFFFFFF7FC00000 ∧ t.fcsr = 0x10 ∧ t.pc = 0x1004) := by decide

-- V45-61
theorem test_fminD :
    ends (hart dataFloat 0x2A3100D3 [] [(2, 0x7FF0000000000000), (3, 0x7FF0000000000001)])
      (fun t => t.readF 1 = 0x7FF0000000000000 ∧ t.fcsr = 0x10 ∧ t.pc = 0x1004) := by decide

-- V45-55
theorem test_fmaxS :
    ends (hart dataFloat 0x283110D3 [] [(2, 0xFFFFFFFF7F800001), (3, 0xFFFFFFFF7FC00000)])
      (fun t => t.readF 1 = 0xFFFFFFFF7FC00000 ∧ t.fcsr = 0x10 ∧ t.pc = 0x1004) := by decide

-- V45-67
theorem test_fmaxD :
    ends (hart dataFloat 0x2A3110D3 [] [(2, 0x7FF0000000000000), (3, 0x7FF0000000000001)])
      (fun t => t.readF 1 = 0x7FF0000000000000 ∧ t.fcsr = 0x10 ∧ t.pc = 0x1004) := by decide

-- V45-77
theorem test_feqS :
    ends (hart dataFloat 0xA03122D3 [] [(2, 0xFFFFFFFF3F800000), (3, 0xFFFFFFFF7F800001)])
      (fun t => t.readX 5 = 0x0 ∧ t.fcsr = 0x10 ∧ t.pc = 0x1004) := by decide

-- V45-102
theorem test_feqD :
    ends (hart dataFloat 0xA23122D3 [] [(2, 0x7FF0000000000001), (3, 0x3FF0000000000000)])
      (fun t => t.readX 5 = 0x0 ∧ t.fcsr = 0x10 ∧ t.pc = 0x1004) := by decide

-- V45-85
theorem test_fltS :
    ends (hart dataFloat 0xA03112D3 [] [(2, 0xFFFFFFFF3F800000), (3, 0xFFFFFFFF7F800001)])
      (fun t => t.readX 5 = 0x0 ∧ t.fcsr = 0x10 ∧ t.pc = 0x1004) := by decide

-- V45-108
theorem test_fltD :
    ends (hart dataFloat 0xA23112D3 [] [(2, 0x7FF8000000000000), (3, 0x3FF0000000000000)])
      (fun t => t.readX 5 = 0x0 ∧ t.fcsr = 0x10 ∧ t.pc = 0x1004) := by decide

-- V45-93
theorem test_fleS :
    ends (hart dataFloat 0xA03102D3 [] [(2, 0xFFFFFFFF3F800000), (3, 0xFFFFFFFF7F800001)])
      (fun t => t.readX 5 = 0x0 ∧ t.fcsr = 0x10 ∧ t.pc = 0x1004) := by decide

-- V45-115
theorem test_fleD :
    ends (hart dataFloat 0xA23102D3 [] [(2, 0x7FF8000000000000), (3, 0x3FF0000000000000)])
      (fun t => t.readX 5 = 0x0 ∧ t.fcsr = 0x10 ∧ t.pc = 0x1004) := by decide

-- V45-127
theorem test_fclassS :
    ends (hart dataFloat 0xE00112D3 [] [(2, 0xFFFFFFFF7F800001)])
      (fun t => t.readX 5 = 0x100 ∧ t.pc = 0x1004) := by decide

-- V45-142
theorem test_fclassD :
    ends (hart dataFloat 0xE20112D3 [] [(2, 0x7FF0000000000001)])
      (fun t => t.readX 5 = 0x100 ∧ t.pc = 0x1004) := by decide

-- V45-145
theorem test_fmvSX :
    ends (hart dataFloat 0xF00300D3 [(6, 0x123456783F800000)] [])
      (fun t => t.readF 1 = 0xFFFFFFFF3F800000 ∧ t.pc = 0x1004) := by decide

-- V45-148
theorem test_fmvDX :
    ends (hart dataFloat 0xF20300D3 [(6, 0x3FF0000000000000)] [])
      (fun t => t.readF 1 = 0x3FF0000000000000 ∧ t.pc = 0x1004) := by decide

-- V45-151
theorem test_fmvXS :
    ends (hart dataFloat 0xE00102D3 [] [(2, 0x123456783F800000)])
      (fun t => t.readX 5 = 0x3F800000 ∧ t.pc = 0x1004) := by decide

-- V45-154
theorem test_fmvXD :
    ends (hart dataFloat 0xE20102D3 [] [(2, 0xFFFFFFFF3F800000)])
      (fun t => t.readX 5 = 0xFFFFFFFF3F800000 ∧ t.pc = 0x1004) := by decide

-- ==== RV64F/RV64D integer conversions (49_fp_int_convert.md) ====

-- V46-169
theorem test_fcvtSW :
    ends (hart dataInt 0xD00330D3 [(6, 0x1000001)] [])
      (fun t => t.readF 1 = 0xFFFFFFFF4B800001 ∧ t.fcsr = 0x1 ∧ t.pc = 0x1004) := by decide

-- V46-181
theorem test_fcvtDW :
    ends (hart dataInt 0xD20300D3 [(6, 0x80000000)] [])
      (fun t => t.readF 1 = 0xC1E0000000000000 ∧ t.pc = 0x1004) := by decide

-- V46-192
theorem test_fcvtDW_raises :
    ends (hart dataInt 0xD20360D3 [(6, 0x5)] [])
      (fun t => t.trap = some (.illegalInstruction 0xD20360D3) ∧ t.pc = 0x1000) := by decide

-- V46-175
theorem test_fcvtSL :
    ends (hart dataInt 0xD02300D3 [(6, 0x7FFFFFFFFFFFFFFF)] [])
      (fun t => t.readF 1 = 0xFFFFFFFF5F000000 ∧ t.fcsr = 0x1 ∧ t.pc = 0x1004) := by decide

-- V46-186
theorem test_fcvtDL :
    ends (hart dataInt 0xD22300D3 [(6, 0x7FFFFFFFFFFFFFFF)] [])
      (fun t => t.readF 1 = 0x43E0000000000000 ∧ t.fcsr = 0x1 ∧ t.pc = 0x1004) := by decide

-- V46-171
theorem test_fcvtSWu :
    ends (hart dataInt 0xD01300D3 [(6, 0xFFFFFFFFFFFFFFFF)] [])
      (fun t => t.readF 1 = 0xFFFFFFFF4F800000 ∧ t.fcsr = 0x1 ∧ t.pc = 0x1004) := by decide

-- V46-184
theorem test_fcvtDWu :
    ends (hart dataInt 0xD21300D3 [(6, 0xFFFFFFFFFFFFFFFF)] [])
      (fun t => t.readF 1 = 0x41EFFFFFFFE00000 ∧ t.pc = 0x1004) := by decide

-- V46-178
theorem test_fcvtSLu :
    ends (hart dataInt 0xD03300D3 [(6, 0xFFFFFFFFFFFFFFFF)] [])
      (fun t => t.readF 1 = 0xFFFFFFFF5F800000 ∧ t.fcsr = 0x1 ∧ t.pc = 0x1004) := by decide

-- V46-189
theorem test_fcvtDLu :
    ends (hart dataInt 0xD23300D3 [(6, 0xFFFFFFFFFFFFFFFF)] [])
      (fun t => t.readF 1 = 0x43F0000000000000 ∧ t.fcsr = 0x1 ∧ t.pc = 0x1004) := by decide

-- V46-206
theorem test_fcvtWS :
    ends (hart dataInt 0xC00102D3 [] [(2, 0xFFFFFFFFCF000001)])
      (fun t => t.readX 5 = 0xFFFFFFFF80000000 ∧ t.fcsr = 0x10 ∧ t.pc = 0x1004) := by decide

-- V46-233
theorem test_fcvtWD :
    ends (hart dataInt 0xC20112D3 [] [(2, 0xC1E0000000100000)])
      (fun t => t.readX 5 = 0xFFFFFFFF80000000 ∧ t.fcsr = 0x1 ∧ t.pc = 0x1004) := by decide

-- V46-224
theorem test_fcvtLS :
    ends (hart dataInt 0xC02102D3 [] [(2, 0xFFFFFFFF7F800001)])
      (fun t => t.readX 5 = 0x7FFFFFFFFFFFFFFF ∧ t.fcsr = 0x10 ∧ t.pc = 0x1004) := by decide

-- V46-240
theorem test_fcvtLD :
    ends (hart dataInt 0xC22102D3 [] [(2, 0x43E0000000000000)])
      (fun t => t.readX 5 = 0x7FFFFFFFFFFFFFFF ∧ t.fcsr = 0x10 ∧ t.pc = 0x1004) := by decide

-- V46-215
theorem test_fcvtWuS :
    ends (hart dataInt 0xC01112D3 [] [(2, 0xFFFFFFFFBF800000)])
      (fun t => t.readX 5 = 0x0 ∧ t.fcsr = 0x10 ∧ t.pc = 0x1004) := by decide

-- V46-236
theorem test_fcvtWuD :
    ends (hart dataInt 0xC21102D3 [] [(2, 0x41E65A0BC0000000)])
      (fun t => t.readX 5 = 0xFFFFFFFFB2D05E00 ∧ t.pc = 0x1004) := by decide

-- V46-226
theorem test_fcvtLuS :
    ends (hart dataInt 0xC03102D3 [] [(2, 0xFFFFFFFF5F800000)])
      (fun t => t.readX 5 = 0xFFFFFFFFFFFFFFFF ∧ t.fcsr = 0x10 ∧ t.pc = 0x1004) := by decide

-- V46-245
theorem test_fcvtLuD :
    ends (hart dataInt 0xC23102D3 [] [(2, 0x43F0000000000000)])
      (fun t => t.readX 5 = 0xFFFFFFFFFFFFFFFF ∧ t.fcsr = 0x10 ∧ t.pc = 0x1004) := by decide

end Sys2Proof.Tests.Slice0
end

section
/-! How a step can end. `Ending` lists, once, the shared operations an instruction ends in, so that a claim about every
instruction is proved by one case for each operation and not by one for each of the 156 constructors; `step_next` says the
same of a step. -/

namespace Sys2Proof.Machine

-- ==== How an instruction ends ====

/-- `Ending s i r`: the meaning of `i` in the state `s` is the shared operation `r`, one constructor for each operation. -/
inductive Ending (s : State) : Instr → Result → Prop
  /-- Integer computation, and the floating-point instructions that only write an integer register. -/
  | writeX {i : Instr} (rd : Reg) (v : Dword) : Ending s i (s.writeX rd v).completes
  /-- A floating-point result without flags. -/
  | writeF {i : Instr} (rd : Reg) (v : Dword) : Ending s i (s.writeF rd v).completes
  /-- An integer result with flags (R228). -/
  | writeXFlags {i : Instr} (rd : Reg) (v : Dword) (F : Flags) : Ending s i ((s.writeX rd v).accrue F).completes
  /-- A floating-point result with flags (R228). -/
  | writeFFlags {i : Instr} (rd : Reg) (v : Dword) (F : Flags) : Ending s i ((s.writeF rd v).accrue F).completes
  /-- An instruction without effect: `fence` (R199). -/
  | completes {i : Instr} : Ending s i s.completes
  /-- `fence.i` (R200). -/
  | syncFetch {imm : BitVec 12} {rs1 rd : Reg} : Ending s (.fenceI imm rs1 rd) s.syncFetch.completes
  /-- An instruction that raises without any other meaning: `ecall`, `ebreak`, a reserved rounding mode (R98). -/
  | takeTrap {i : Instr} (e : Exception) : Ending s i (s.takeTrap e)
  /-- A conditional branch (R160). -/
  | branchIf {i : Instr} (taken : Bool) (off : BitVec 13) : Ending s i (s.branchIf taken off)
  /-- A jump with its link (R160). -/
  | jumpTo {i : Instr} (rd : Reg) (target : Dword) : Ending s i (s.jumpTo (s.writeX rd (s.pc + 4)) target)
  /-- A load into an integer register (R175). -/
  | loadX {i : Instr} (rd : Reg) (a : Dword) (n : Nat) (ext : Nat → Dword) : Ending s i (s.loadX rd a n ext)
  /-- A load into a floating-point register (R230, R231). -/
  | loadF {i : Instr} (rd : Reg) (a : Dword) (n : Nat) (ext : Nat → Dword) : Ending s i (s.loadF rd a n ext)
  /-- A store (R175). -/
  | store {i : Instr} (a : Dword) {n : Nat} (v : Nat) (size : n = 1 ∨ n = 2 ∨ n = 4 ∨ n = 8) : Ending s i (s.store a n v)
  /-- An `amo*` (R310). -/
  | amo {i : Instr} (rd : Reg) (a : Dword) {n : Nat} (op : Nat → Nat) (ext : Nat → Dword) (size : n = 4 ∨ n = 8) :
      Ending s i (s.amo rd a n op ext)
  /-- `lr` (R330, R331). -/
  | loadReserved {i : Instr} (rd : Reg) (a : Dword) {n : Nat} (ext : Nat → Dword) (size : n = 4 ∨ n = 8)
      (isLr : IsReservation i) : Ending s i (s.loadReserved rd a n ext)
  /-- `sc` (R332, R333). -/
  | storeConditional {i : Instr} (rd : Reg) (a : Dword) {n : Nat} (v : Nat) (size : n = 4 ∨ n = 8)
      (isSc : IsReservation i) : Ending s i (s.storeConditional rd a n v)
  /-- A `csrr*` (R190). -/
  | csrAccess {i : Instr} (a : BitVec 12) (rd : Reg) (reads writes : Bool) (new : Dword → Dword) (isCsr : IsCsr i) :
      Ending s i (s.csrAccess i a rd reads writes new)

/-- A rounding instruction ends as it does under a usable mode, or raises. -/
theorem Ending.withRm {s : State} {i : Instr} {rm : BitVec 3} {k : RMode → Result} (h : ∀ m, Ending s i (k m)) :
    Ending s i (s.withRm i rm k) := by
  unfold State.withRm
  cases s.rmode rm with
  | none => exact .takeTrap _
  | some m => exact h m

/-- Every instruction ends in one of the shared operations. -/
theorem exec_ending (i : Instr) (s : State) : Ending s i (exec i s) := by
  cases i with
  | add | addw | addi | addiw | and | andi | auipc | lui | or | ori | sll | sllw | slli | slliw | slt | slti | sltiu | sltu
  | sra | sraw | srai | sraiw | srl | srlw | srli | srliw | sub | subw | xor | xori
  | mul | mulw | mulh | mulhu | mulhsu | div | divw | divu | divuw | rem | remw | remu | remuw
  | fclassS | fclassD | fmvXS | fmvXD => exact .writeX _ _
  | fsgnjS | fsgnjD | fsgnjnS | fsgnjnD | fsgnjxS | fsgnjxD | fmvSX | fmvDX => exact .writeF _ _
  | feqS | feqD | fltS | fltD | fleS | fleD => exact .writeXFlags _ _ _
  | fminS | fminD | fmaxS | fmaxD => exact .writeFFlags _ _ _
  | fcvtDW | fcvtDWu => exact .withRm fun _ => .writeF _ _
  | fcvtWS | fcvtWD | fcvtLS | fcvtLD | fcvtWuS | fcvtWuD | fcvtLuS | fcvtLuD =>
    exact .withRm fun _ => .writeXFlags _ _ _
  | faddS | faddD | fsubS | fsubD | fmulS | fmulD | fdivS | fdivD | fsqrtS | fsqrtD
  | fmaddS | fmaddD | fmsubS | fmsubD | fnmaddS | fnmaddD | fnmsubS | fnmsubD
  | fcvtSD | fcvtDS | fcvtSW | fcvtSL | fcvtDL | fcvtSWu | fcvtSLu | fcvtDLu =>
    exact .withRm fun _ => .writeFFlags _ _ _
  | fence => exact .completes
  | fenceI => exact .syncFetch
  | ecall | ebreak => exact .takeTrap _
  | beq | bne | blt | bge | bltu | bgeu => exact .branchIf _ _
  | jal | jalr => exact .jumpTo _ _
  | lb | lbu | lh | lhu | lw | lwu | ld => exact .loadX _ _ _ _
  | flw | fld => exact .loadF _ _ _ _
  | sb | sh | sw | sd | fsw | fsd => exact .store _ _ (by decide)
  | amoaddW | amoaddD | amoandW | amoandD | amomaxW | amomaxD | amomaxuW | amomaxuD | amominW | amominD | amominuW
  | amominuD | amoorW | amoorD | amoswapW | amoswapD | amoxorW | amoxorD => exact .amo _ _ _ _ (by decide)
  | lrW | lrD => exact .loadReserved _ _ _ (by decide) trivial
  | scW | scD => exact .storeConditional _ _ _ (by decide) trivial
  | csrrw | csrrs | csrrc | csrrwi | csrrsi | csrrci =>
    unfold exec
    exact .csrAccess _ _ _ _ _ trivial

-- ==== How a step ends ====

/-- A fetch changes nothing but the count of draws, by at most one. -/
theorem State.fetch_state (s : State) : s.fetch.2 = s ∨ s.fetch.2 = s.drawn := by
  simp only [State.fetch]
  split
  · exact .inl rfl
  · exact .inr rfl

/-- What a fetched word answers, if it answers a next state: what its instruction answers, or the trap of a word that is no
instruction. -/
theorem runWord_next {w : Word} {s t : State} (h : runWord w s = .next t) :
    (∃ i, decode w = .ok i ∧ exec i s = .next t) ∨ t = s.withTrap (.illegalInstruction w) := by
  unfold runWord at h
  split at h
  next i hi => exact .inl ⟨i, hi, h⟩
  next => cases h; exact .inr rfl

/-- What a step answers, if it answers a next state: the hart ran, at an aligned `pc`, and either it may not execute there and
the fetch raised, or the word fetched ran. -/
theorem step_next {s t : State} (h : step s = .next t) :
    s.trap = none ∧ s.pc.toNat % 4 = 0 ∧
      ((permitsAll s.params .execute s.pc.toNat 4 = false ∧ t = s.withTrap (.instructionAccessFault s.pc)) ∨
        permitsAll s.params .execute s.pc.toNat 4 = true ∧ ∃ w, s.fetch.1 = some w ∧ runWord w s.fetch.2 = .next t) := by
  unfold step stepUnder at h
  split at h
  next running =>
    unfold hartStep at h
    split_ifs at h with misaligned executable
    · refine ⟨running, by simpa using misaligned, .inr ⟨executable, ?_⟩⟩
      split at h
      next w u fetched => exact ⟨w, by rw [fetched], by rw [fetched]; exact h⟩
      next => cases h
    · cases h
      exact ⟨running, by simpa using misaligned, .inl ⟨by simpa using executable, rfl⟩⟩
  next => cases h

end Sys2Proof.Machine
end

section
/-! The parameters and the bytes that MemMap does not let write stay through every step (R5, R54, R58). -/

namespace Sys2Proof.Machine

/-- From `s` to `t` the parameters stay, and every byte that MemMap does not let write. -/
structure KeepsProtected (s t : State) : Prop where
  /-- The parameters. -/
  params : t.params = s.params
  /-- The protected bytes. -/
  mem : ∀ a : Nat, permits s.params .write a = false → t.mem.read a = s.mem.read a

/-- An update of neither the parameters nor the memory protects every byte. -/
theorem KeepsProtected.of_eq {s t : State} (params : t.params = s.params) (mem : t.mem = s.mem) : KeepsProtected s t :=
  ⟨params, fun _ _ => by rw [mem]⟩

/-- A store that may write all its bytes writes no protected one. -/
theorem KeepsProtected.putBytes {s : State} {a n : Nat} (v : Nat) (h : permitsAll s.params .write a n = true) :
    KeepsProtected s (s.putBytes a n v) where
  params := rfl
  mem b hb := by
    refine Memory.read_writeLE_outside n s.mem a v b ?_
    by_contra inside
    have writable := (permitsAll_iff _ _ _ _).mp h (b - a) (by omega)
    rw [show a + (b - a) = b by omega, hb] at writable
    cases writable

/-- An access that passes the checks of a store or of an `amo*` may write all its bytes. -/
theorem State.writable_of_checkAccess {s : State} {c : AccessClass} {a : Dword} {n : Nat} (hc : c ≠ .load)
    (h : s.checkAccess c a n = none) : permitsAll s.params .write a.toNat n = true := by
  have allowed := ((s.checkAccess_none_iff c a n).mp h).2
  cases c with
  | load => exact absurd rfl hc
  | store => exact allowed
  | amo => exact (Bool.and_eq_true_iff.mp allowed).2

/-- Reading a CSR leaves memory alone. -/
@[simp] theorem State.readCsr_mem (s : State) (c : Csr) : (s.readCsr c).2.mem = s.mem := by cases c <;> rfl

/-- Reading a CSR leaves the parameters alone. -/
@[simp] theorem State.readCsr_params (s : State) (c : Csr) : (s.readCsr c).2.params = s.params := by cases c <;> rfl

/-- A CSR access touches neither the parameters nor memory, whether it raises or completes. -/
theorem State.csrAccess_keepsProtected {s t : State} {i : Instr} {a : BitVec 12} {rd : Reg} {reads writes : Bool}
    {new : Dword → Dword} (h : s.csrAccess i a rd reads writes new = .next t) : KeepsProtected s t := by
  rw [State.csrAccess_eq] at h
  split at h
  next => cases h; exact .of_eq rfl rfl
  next c _ =>
    cases h
    by_cases readOnly : (writes && c.readOnly) = true
    · rw [if_pos readOnly]
      exact .of_eq rfl rfl
    · rw [if_neg readOnly]
      cases reads <;> cases writes <;> exact .of_eq (by simp) (by simp)

/-- An `sc` writes only where it may store. -/
theorem State.storeConditional_keepsProtected {s t : State} {rd : Reg} {a : Dword} {n v : Nat}
    (h : s.storeConditional rd a n v = .next t) : KeepsProtected s t := by
  rw [State.storeConditional_eq] at h
  cases h
  split
  next => exact .of_eq rfl rfl
  next check =>
    have stored := KeepsProtected.putBytes v (State.writable_of_checkAccess (by decide) check)
    split_ifs
    · exact .of_eq rfl rfl
    · exact ⟨stored.params, stored.mem⟩
    · exact ⟨stored.params, stored.mem⟩
    · exact .of_eq rfl rfl

/-- However an instruction ends, the protected bytes stay: only a store, an `amo*` and an `sc` write memory, and each only
after its check. -/
theorem Ending.keepsProtected {s t : State} {i : Instr} {r : Result} (h : Ending s i r) (ht : r = .next t) :
    KeepsProtected s t := by
  cases h with
  | writeX | writeF | writeXFlags | writeFFlags | completes | syncFetch | takeTrap => cases ht; exact .of_eq rfl rfl
  | branchIf taken off =>
    rw [State.branchIf_eq, State.jumpTo_eq] at ht
    split_ifs at ht <;> cases ht <;> exact .of_eq rfl rfl
  | jumpTo rd target =>
    rw [State.jumpTo_eq] at ht
    split_ifs at ht <;> cases ht <;> exact .of_eq rfl rfl
  | loadX | loadF | loadReserved =>
    obtain ⟨v, _, _, rfl⟩ | ⟨e, _, rfl⟩ := State.read_finish_next ht <;> exact .of_eq rfl rfl
  | store a v =>
    rw [State.store_eq] at ht
    split at ht
    next check =>
      cases ht
      have stored := KeepsProtected.putBytes v (State.writable_of_checkAccess (by decide) check)
      exact ⟨stored.params, stored.mem⟩
    next => cases ht; exact .of_eq rfl rfl
  | amo rd a op ext =>
    obtain ⟨old, check, _, rfl⟩ | ⟨e, _, rfl⟩ := State.read_finish_next ht
    · have stored := KeepsProtected.putBytes (op old) (State.writable_of_checkAccess (by decide) check)
      exact ⟨stored.params, stored.mem⟩
    · exact .of_eq rfl rfl
  | storeConditional => exact State.storeConditional_keepsProtected ht
  | csrAccess => exact State.csrAccess_keepsProtected ht

/-- A fetched word keeps the protected bytes, whether or not it is an instruction. -/
theorem runWord_keepsProtected {w : Word} {s t : State} (h : runWord w s = .next t) : KeepsProtected s t := by
  obtain ⟨i, _, hi⟩ | rfl := runWord_next h
  · exact (exec_ending i s).keepsProtected hi
  · exact .of_eq rfl rfl

/-- Settles O15: a step is a fetch, which only draws, and then a word's run or a trap. -/
theorem stepKeepsParametersAndProtectedMemory : Obligations.StepKeepsParametersAndProtectedMemory := by
  intro s t h
  obtain ⟨_, _, ⟨_, rfl⟩ | ⟨_, w, _, ran⟩⟩ := step_next h
  · exact ⟨rfl, fun _ _ => rfl⟩
  · have kept := runWord_keepsProtected ran
    obtain fetched | fetched := s.fetch_state <;> rw [fetched] at kept <;> exact ⟨kept.params, kept.mem⟩

end Sys2Proof.Machine
end

section
/-! The invariant of a run (R21, R26, R39, R64, R400): it holds at reset, every update of the state keeps it, and so does every
step. The lemmas are in the order of the updates of `State`; an instruction is then a chain of them. -/

namespace Sys2Proof.Machine

section Updates

variable {s : State}

/-- An integer register written: the slot of `x0` is not written. -/
theorem State.Inv.writeX (inv : s.Inv) (rd : Reg) (v : Dword) : (s.writeX rd v).Inv :=
  { inv with slotZero := (s.writeX_slotZero rd v).trans inv.slotZero }

/-- A floating-point register written. -/
theorem State.Inv.writeF (inv : s.Inv) (rd : Reg) (v : Dword) : (s.writeF rd v).Inv := { inv with }

/-- Flags accrued. -/
theorem State.Inv.accrue (inv : s.Inv) (F : Flags) : (s.accrue F).Inv := { inv with }

/-- A CSR written. -/
theorem State.Inv.writeCsr (inv : s.Inv) (c : Csr) (v : Dword) : (s.writeCsr c v).Inv := { inv with }

/-- A draw taken. -/
theorem State.Inv.drawn (inv : s.Inv) : s.drawn.Inv := { inv with }

/-- A CSR read. -/
theorem State.Inv.readCsr (inv : s.Inv) (c : Csr) : (s.readCsr c).2.Inv := by
  cases c with
  | fflags | frm | fcsr => exact inv
  | cycle | time | instret => exact inv.drawn

/-- A jump to a multiple of 4. -/
theorem State.Inv.setPc (inv : s.Inv) {target : Dword} (aligned : target.toNat % 4 = 0) : (s.setPc target).Inv :=
  { inv with pcAligned := aligned }

/-- The next instruction is aligned where this one is, at the top of the address space too. -/
theorem State.Inv.advance (inv : s.Inv) : s.advance.Inv :=
  inv.setPc (by
    have aligned := inv.pcAligned
    rw [BitVec.toNat_add]
    simp only [BitVec.reduceToNat]
    omega)

/-- An exception taken: the record stands without a reservation. -/
theorem State.Inv.withTrap (inv : s.Inv) (e : Exception) : (s.withTrap e).Inv :=
  { inv with
    resvOk := fun _ h => nomatch h
    trapOk := fun _ => rfl }

/-- The reservation cleared. -/
theorem State.Inv.clearResv (inv : s.Inv) : (s.setResv none).Inv :=
  { inv with
    resvOk := fun _ h => nomatch h
    trapOk := fun _ => rfl }

/-- A reservation made by a hart that runs, of 4 or 8 aligned bytes. -/
theorem State.Inv.setResv (inv : s.Inv) (running : s.trap = none) {a : Dword} {n : Nat} (size : n = 4 ∨ n = 8)
    (aligned : a.toNat % n = 0) : (s.setResv (some ⟨a, n⟩)).Inv :=
  { inv with
    resvOk := fun _ h => by cases h; exact ⟨size, aligned⟩
    trapOk := fun h => absurd running h }

/-- The older values discarded. -/
theorem State.Inv.syncFetch (inv : s.Inv) : s.syncFetch.Inv := { inv with staleOk := fun _ h => nomatch h }

/-- The words that an aligned access touches are words of the address space. -/
theorem touchedWords_in_space {a : Dword} {n w : Nat} (size : n = 1 ∨ n = 2 ∨ n = 4 ∨ n = 8) (aligned : a.toNat % n = 0)
    (h : w ∈ touchedWords a.toNat n) : w % 4 = 0 ∧ w < 2 ^ 64 := by
  have inSpace := aligned_in_space a n size aligned
  unfold touchedWords at h
  split at h
  next small =>
    rw [List.mem_singleton] at h
    omega
  next large =>
    have eight : n = 8 := by omega
    subst eight
    simp only [List.mem_cons, List.not_mem_nil, or_false] at h
    omega

/-- Bytes stored by an aligned access: memory stays canonical, and the older values kept are those of words. -/
theorem State.Inv.putBytes (inv : s.Inv) {a : Dword} {n : Nat} (v : Nat) (size : n = 1 ∨ n = 2 ∨ n = 4 ∨ n = 8)
    (aligned : a.toNat % n = 0) : (s.putBytes a.toNat n v).Inv :=
  { inv with
    memWf := Memory.wf_writeLE n v inv.memWf (aligned_in_space a n size aligned)
    staleOk := fun e he => by
      obtain held | ⟨w, touched, rfl⟩ := (s.mem_staleAfter a.toNat n e).mp he
      · exact inv.staleOk e held
      · exact touchedWords_in_space size aligned touched }

end Updates

/-- An access that passes its checks is aligned (R54). -/
theorem State.aligned_of_checkAccess {s : State} {c : AccessClass} {a : Dword} {n : Nat} (check : s.checkAccess c a n = none) :
    a.toNat % n = 0 := ((s.checkAccess_none_iff c a n).mp check).1

/-- A transfer of control ends at an aligned target, or traps. -/
theorem State.jumpTo_keepsInv {s linked t : State} {target : Dword} (inv : s.Inv) (invLinked : linked.Inv)
    (h : s.jumpTo linked target = .next t) : t.Inv := by
  rw [State.jumpTo_eq] at h
  cases h
  split
  next aligned => exact invLinked.setPc aligned
  next => exact inv.withTrap _

/-- A load, an `lr` and an `amo*` keep the invariant where the update for the value read does. -/
theorem State.read_keepsInv {s t : State} {c : AccessClass} {a : Dword} {n : Nat} {k : Nat → State} (inv : s.Inv)
    (update : ∀ v, a.toNat % n = 0 → (k v).Inv) (h : ((s.memRead c a n).map k).finish s = .next t) : t.Inv := by
  obtain ⟨v, check, _, rfl⟩ | ⟨e, _, rfl⟩ := State.read_finish_next h
  · exact (update v (State.aligned_of_checkAccess check)).advance
  · exact inv.withTrap e

/-- A store keeps the invariant. -/
theorem State.store_keepsInv {s t : State} {a : Dword} {n v : Nat} (inv : s.Inv) (size : n = 1 ∨ n = 2 ∨ n = 4 ∨ n = 8)
    (h : s.store a n v = .next t) : t.Inv := by
  rw [State.store_eq] at h
  split at h <;> cases h
  next check => exact (inv.putBytes v size (State.aligned_of_checkAccess check)).advance
  next => exact inv.withTrap _

/-- An `sc` that stores, aligned, keeps the invariant. -/
theorem State.Inv.scSucceeds {s : State} (inv : s.Inv) (rd : Reg) {a : Dword} {n : Nat} (v : Nat) (size : n = 4 ∨ n = 8)
    (aligned : a.toNat % n = 0) : (s.scSucceeds rd a n v).Inv :=
  ((inv.putBytes v (.inr (.inr size)) aligned).writeX rd 0).clearResv

/-- An `sc` that does not store keeps the invariant. -/
theorem State.Inv.scFails {s : State} (inv : s.Inv) (rd : Reg) : (s.scFails rd).Inv := (inv.writeX rd 1).clearResv

/-- An `sc` keeps the invariant, whatever the reservation and the draw. -/
theorem State.storeConditional_keepsInv {s t : State} {rd : Reg} {a : Dword} {n v : Nat} (inv : s.Inv) (size : n = 4 ∨ n = 8)
    (h : s.storeConditional rd a n v = .next t) : t.Inv := by
  rw [State.storeConditional_eq] at h
  cases h
  split
  next => exact inv.withTrap _
  next check =>
    have aligned := State.aligned_of_checkAccess check
    split_ifs
    · exact (inv.drawn.scFails rd).advance
    · exact (inv.drawn.scSucceeds rd v size aligned).advance
    · exact (inv.scSucceeds rd v size aligned).advance
    · exact (inv.scFails rd).advance

/-- A CSR access keeps the invariant, whether it raises or completes. -/
theorem State.csrAccess_keepsInv {s t : State} {i : Instr} {a : BitVec 12} {rd : Reg} {reads writes : Bool}
    {new : Dword → Dword} (inv : s.Inv) (h : s.csrAccess i a rd reads writes new = .next t) : t.Inv := by
  rw [State.csrAccess_eq] at h
  split at h <;> cases h
  next => exact inv.withTrap _
  next c _ =>
    split
    next => exact inv.withTrap _
    next =>
      have read := inv.readCsr c
      match reads, writes with
      | false, false => exact inv.advance
      | false, true => exact (inv.writeCsr c _).advance
      | true, false => exact (read.writeX rd _).advance
      | true, true => exact ((read.writeCsr c _).writeX rd _).advance

/-- However an instruction of a hart that runs ends, the invariant stays. -/
theorem Ending.keepsInv {s t : State} {i : Instr} {r : Result} (h : Ending s i r) (inv : s.Inv) (running : s.trap = none)
    (ht : r = .next t) : t.Inv := by
  cases h with
  | writeX rd v => cases ht; exact (inv.writeX rd v).advance
  | writeF rd v => cases ht; exact (inv.writeF rd v).advance
  | writeXFlags rd v F => cases ht; exact ((inv.writeX rd v).accrue F).advance
  | writeFFlags rd v F => cases ht; exact ((inv.writeF rd v).accrue F).advance
  | completes => cases ht; exact inv.advance
  | syncFetch => cases ht; exact inv.syncFetch.advance
  | takeTrap e => cases ht; exact inv.withTrap e
  | branchIf taken off =>
    rw [State.branchIf_eq] at ht
    split at ht
    next => exact State.jumpTo_keepsInv inv inv ht
    next => cases ht; exact inv.advance
  | jumpTo rd target => exact State.jumpTo_keepsInv inv (inv.writeX rd _) ht
  | loadX rd a n ext => exact State.read_keepsInv inv (fun v _ => inv.writeX rd (ext v)) ht
  | loadF rd a n ext => exact State.read_keepsInv inv (fun v _ => inv.writeF rd (ext v)) ht
  | store a v size => exact State.store_keepsInv inv size ht
  | amo rd a op ext size =>
    exact State.read_keepsInv inv (fun v aligned => (inv.putBytes (op v) (.inr (.inr size)) aligned).writeX rd (ext v)) ht
  | loadReserved rd a ext size =>
    exact State.read_keepsInv inv (fun v aligned => (inv.writeX rd (ext v)).setResv running size aligned) ht
  | storeConditional rd a v size => exact State.storeConditional_keepsInv inv size ht
  | csrAccess => exact State.csrAccess_keepsInv inv ht

/-- A fetched word keeps the invariant, whether or not it is an instruction. -/
theorem runWord_keepsInv {w : Word} {s t : State} (inv : s.Inv) (running : s.trap = none) (h : runWord w s = .next t) :
    t.Inv := by
  obtain ⟨i, _, hi⟩ | rfl := runWord_next h
  · exact (exec_ending i s).keepsInv inv running hi
  · exact inv.withTrap _

/-- Settles O14: only a hart that runs steps to a next state; its fetch at most draws, and what follows is a word's run or a
trap. -/
theorem stepKeepsInvariant : Obligations.StepKeepsInvariant := by
  intro s t inv h
  obtain ⟨running, _, ⟨_, rfl⟩ | ⟨_, w, _, ran⟩⟩ := step_next h
  · exact inv.withTrap _
  · obtain fetched | fetched := s.fetch_state <;> rw [fetched] at ran
    · exact runWord_keepsInv inv running ran
    · exact runWord_keepsInv inv.drawn running ran

/-- Settles O13: nothing is listed, reserved, stale or recorded after reset. -/
theorem resetMeetsInvariant : Obligations.ResetMeetsInvariant where
  memWf := reset_mem_wf
  slotZero := rfl
  pcAligned := rfl
  resvOk _ h := nomatch h
  staleOk _ h := nomatch h
  trapOk _ := rfl

end Sys2Proof.Machine
end

section
/-! The `csrr*`: the access each form makes, and how it ends at an absent CSR and at a read-only counter (R33, R36, R190 to
R196). -/

namespace Sys2Proof.Machine

-- ==== The addresses ====

/-- The addresses that select no register: all but the three of R33 and, under HAS_COUNTERS, the three of R36. -/
theorem csrAt_eq_none {hasCounters : Bool} {a : BitVec 12} (notFp : a ∉ [0x001#12, 0x002#12, 0x003#12])
    (notCounter : hasCounters = true → a ∉ [0xC00#12, 0xC01#12, 0xC02#12]) : csrAt hasCounters a = none := by
  unfold csrAt
  split
  case h_1 | h_2 | h_3 => simp at notFp
  case h_4 | h_5 | h_6 => exact if_neg fun counters => by simp [counters] at notCounter
  case h_7 => rfl

/-- Under HAS_COUNTERS the three addresses of R36 select read-only registers. -/
theorem csrAt_counter {a : BitVec 12} (h : a ∈ [0xC00#12, 0xC01#12, 0xC02#12]) :
    ∃ c, csrAt true a = some c ∧ c.readOnly = true := by
  simp only [List.mem_cons, List.not_mem_nil, or_false] at h
  obtain rfl | rfl | rfl := h
  · exact ⟨.cycle, rfl, rfl⟩
  · exact ⟨.time, rfl, rfl⟩
  · exact ⟨.instret, rfl, rfl⟩

/-- A read of a read-only register is a draw (R36). -/
theorem State.readCsr_of_readOnly (s : State) {c : Csr} (h : c.readOnly = true) :
    s.readCsr c = (Config.freeCounter s.draws, s.drawn) := by
  cases c with
  | fflags | frm | fcsr => cases h
  | cycle | time | instret => rfl

/-- A draw, and an integer register written. -/
theorem OnlyChanges.drawn_writeX (s : State) (rd : Reg) (v : Dword) :
    OnlyChanges { x := some rd, draws := true } s (s.drawn.writeX rd v) where
  xKept _ hr := State.readX_writeX_ne s.drawn v hr
  fKept _ _ := rfl
  fcsrKept _ := rfl
  resvKept _ := rfl
  memKept _ _ := rfl
  fetchViewKept _ := rfl
  trapKept := rfl
  paramsKept := rfl
  drawsKept h := by cases h

-- ==== The six forms, each the access it makes (R191 to R196) ====

section Forms

variable (s : State) (rd rs1 : Reg) (u : BitVec 5) (a : BitVec 12)

theorem exec_csrrw : exec (.csrrw rd rs1 a) s =
    s.csrAccess (.csrrw rd rs1 a) a rd (decide (rd ≠ 0#5)) true (fun _ => s.readX rs1) := rfl

theorem exec_csrrs : exec (.csrrs rd rs1 a) s =
    s.csrAccess (.csrrs rd rs1 a) a rd true (decide (rs1 ≠ 0#5)) (fun old => old ||| s.readX rs1) := rfl

theorem exec_csrrc : exec (.csrrc rd rs1 a) s =
    s.csrAccess (.csrrc rd rs1 a) a rd true (decide (rs1 ≠ 0#5)) (fun old => old &&& ~~~s.readX rs1) := rfl

theorem exec_csrrwi : exec (.csrrwi rd u a) s =
    s.csrAccess (.csrrwi rd u a) a rd (decide (rd ≠ 0#5)) true (fun _ => u.setWidth 64) := rfl

theorem exec_csrrsi : exec (.csrrsi rd u a) s =
    s.csrAccess (.csrrsi rd u a) a rd true (decide (u ≠ 0#5)) (fun old => old ||| u.setWidth 64) := rfl

theorem exec_csrrci : exec (.csrrci rd u a) s =
    s.csrAccess (.csrrci rd u a) a rd true (decide (u ≠ 0#5)) (fun old => old &&& ~~~u.setWidth 64) := rfl

end Forms

-- ==== How an access ends ====

section Access

variable {s : State} {i : Instr} {a : BitVec 12} {rd : Reg} {reads writes : Bool} {new : Dword → Dword}

/-- Step 1 of R190: an access to an address that selects no register raises. -/
theorem traps_of_absentCsr (access : exec i s = s.csrAccess i a rd reads writes new)
    (absent : csrAt s.params.hasCounters a = none) : Traps i s (.illegalInstruction (encode i)) := by
  rw [State.csrAccess_eq, absent] at access
  exact access

/-- Step 2 of R190: an access that writes a counter raises. -/
theorem traps_of_counterWrite (access : exec i s = s.csrAccess i a rd reads writes new)
    (counters : s.params.hasCounters = true) (h : a ∈ [0xC00#12, 0xC01#12, 0xC02#12]) (writing : writes = true) :
    Traps i s (.illegalInstruction (encode i)) := by
  obtain ⟨c, selected, readOnly⟩ := csrAt_counter h
  rw [State.csrAccess_eq, counters, selected] at access
  simp only [writing, readOnly, Bool.and_self, if_true] at access
  exact access

/-- An access that only reads a counter takes a draw, which goes to `x[rd]`. -/
theorem completes_of_counterRead (access : exec i s = s.csrAccess i a rd true writes new)
    (counters : s.params.hasCounters = true) (h : a ∈ [0xC00#12, 0xC01#12, 0xC02#12]) (notWriting : writes = false) :
    Completes i s { x := some rd, draws := true } fun t =>
      t.readX rd = written rd (Config.freeCounter s.draws) ∧ t.draws = s.draws + 1 := by
  obtain ⟨c, selected, readOnly⟩ := csrAt_counter h
  have ends : exec i s = .next (s.drawn.writeX rd (Config.freeCounter s.draws)).advance := by
    rw [access, State.csrAccess_eq, counters, selected]
    simp [notWriting, s.readCsr_of_readOnly readOnly]
  exact ⟨_, ends, State.advance_pc_toNat _, (OnlyChanges.drawn_writeX s rd _).setPc _,
    State.readX_writeX_self s.drawn rd _, rfl⟩

end Access

/-- Settles O31: each of the six forms is an access to its address, which selects no register. -/
theorem absentCsrIsIllegal : Obligations.AbsentCsrIsIllegal := by
  intro s rd rs1 u a notFp notCounter i form
  have absent := csrAt_eq_none notFp notCounter
  simp only [List.mem_cons, List.not_mem_nil, or_false] at form
  obtain rfl | rfl | rfl | rfl | rfl | rfl := form
  · exact traps_of_absentCsr (exec_csrrw s rd rs1 a) absent
  · exact traps_of_absentCsr (exec_csrrs s rd rs1 a) absent
  · exact traps_of_absentCsr (exec_csrrc s rd rs1 a) absent
  · exact traps_of_absentCsr (exec_csrrwi s rd u a) absent
  · exact traps_of_absentCsr (exec_csrrsi s rd u a) absent
  · exact traps_of_absentCsr (exec_csrrci s rd u a) absent

/-- Settles O32: the forms with a zero source only read, `csrrw` and `csrrwi` always write, the others write where their
source is not zero. -/
theorem countersReadAsDrawsAndAreReadOnly : Obligations.CountersReadAsDrawsAndAreReadOnly := by
  intro s rd rs1 u counters a h
  simp only [List.forall_mem_cons, List.not_mem_nil, false_implies, implies_true, and_true]
  refine ⟨⟨?_, ?_, ?_, ?_⟩, ⟨?_, ?_⟩, fun nonzero => ⟨?_, ?_⟩, fun nonzero => ⟨?_, ?_⟩⟩
  · exact completes_of_counterRead (exec_csrrs s rd 0 a) counters h rfl
  · exact completes_of_counterRead (exec_csrrc s rd 0 a) counters h rfl
  · exact completes_of_counterRead (exec_csrrsi s rd 0 a) counters h rfl
  · exact completes_of_counterRead (exec_csrrci s rd 0 a) counters h rfl
  · exact traps_of_counterWrite (exec_csrrw s rd rs1 a) counters h rfl
  · exact traps_of_counterWrite (exec_csrrwi s rd u a) counters h rfl
  · exact traps_of_counterWrite (exec_csrrs s rd rs1 a) counters h (decide_eq_true nonzero)
  · exact traps_of_counterWrite (exec_csrrc s rd rs1 a) counters h (decide_eq_true nonzero)
  · exact traps_of_counterWrite (exec_csrrsi s rd u a) counters h (decide_eq_true nonzero)
  · exact traps_of_counterWrite (exec_csrrci s rd u a) counters h (decide_eq_true nonzero)

end Sys2Proof.Machine
end

section
/-! The values after reset (R42, R440), and boxed singles (R32, R226). -/

namespace Sys2Proof.Machine

/-- A fetch has one choice, the current value, where no older value is held (R64). -/
theorem State.fetchChoices_of_stale_nil {s : State} (h : s.stale = []) (w : Nat) : s.fetchChoices w = [s.mem.wordAt w] := by
  simp [State.fetchChoices, h]

/-- The map after reset gives every byte of the address space every permission (log entry 3). -/
theorem resetParams_permits (p : Permission) {a : Nat} (h : a < 2 ^ 64) : permits Config.resetParams p a = true := by
  cases p <;> simpa [permits, Config.resetParams, regionGrants] using h

/-- Settles O5: the fields of the state after reset. -/
theorem resetHasTheStatedValues : Obligations.ResetHasTheStatedValues :=
  ⟨State.reset.readX_zero, rfl, rfl, resetMeetsInvariant.pcAligned, State.fetchChoices_of_stale_nil rfl,
    fun k hk => resetParams_permits .execute (by
      have atZero : State.reset.pc.toNat = 0 := rfl
      omega)⟩

/-- A boxed single reads back. -/
@[simp] theorem unbox_box (r : Word) : unbox (box r) = r := by
  have upper : (box r).extractLsb' 32 32 = 0xFFFFFFFF#32 := BitVec.extractLsb'_append_eq_left
  rw [unbox, if_pos upper]
  exact BitVec.setWidth_append_eq_right

/-- A register that holds no boxed single reads as the canonical NaN. -/
theorem unbox_of_not_boxed {v : Dword} (h : v.extractLsb' 32 32 ≠ 0xFFFFFFFF#32) : unbox v = 0x7FC00000#32 := if_neg h

/-- Settles O38. -/
theorem singlesAreBoxed : Obligations.SinglesAreBoxed := ⟨unbox_box, fun _ _ h => unbox_of_not_boxed h⟩

end Sys2Proof.Machine
end

section
/-! The exceptions of a data access (R54, R407, R408, R411): one lemma for each shared operation that checks an address, and from
them the loads, the stores and the atomics. -/

namespace Sys2Proof.Machine

/-- The permissions a class of access needs of each of its bytes (R54). -/
def AccessClass.needs : AccessClass → List Permission
  | .load => [.read]
  | .store => [.write]
  | .amo => [.read, .write]

/-- MemMap allows an access that finds each permission it needs on each byte. -/
theorem AccessClass.allowed_iff (c : AccessClass) (P : Params) (a n : Nat) :
    c.allowed P a n = true ↔ ∀ p ∈ c.needs, ∀ k < n, permits P p (a + k) = true := by
  cases c <;> simp [AccessClass.allowed, AccessClass.needs, permitsAll_iff]

section BadAccess

variable {i : Instr} {s : State} {c : AccessClass} {rd : Reg} {a : Dword} {n v : Nat}

/-- An instruction that raises whatever the check of its access gives: misaligned first, then forbidden. -/
theorem trapsOnBadAccess_of_check (raises : ∀ e, s.checkAccess c a n = some e → exec i s = .next (s.withTrap e)) :
    TrapsOnBadAccess i s a n c.needs (c.misaligned a) (c.forbidden a) := by
  refine ⟨fun misaligned => raises _ (s.checkAccess_misaligned c a n misaligned), fun k hk p hp aligned denied => ?_⟩
  refine raises _ (s.checkAccess_forbidden c a n aligned ?_)
  rw [Bool.eq_false_iff, Ne, AccessClass.allowed_iff]
  intro granted
  rw [granted p hp k hk] at denied
  cases denied

/-- A read raises what its check gives. -/
theorem trapsOnBadAccess_of_read {k : Nat → State} (h : exec i s = ((s.memRead c a n).map k).finish s) :
    TrapsOnBadAccess i s a n c.needs (c.misaligned a) (c.forbidden a) :=
  trapsOnBadAccess_of_check fun e he => by
    rw [h, State.memRead, he]
    rfl

/-- The loads and `lr`. -/
theorem trapsOnBadAccess_of_load {k : Nat → State} (h : exec i s = ((s.memRead .load a n).map k).finish s) :
    TrapsOnBadAccess i s a n [.read] (.loadAddressMisaligned a) (.loadAccessFault a) := trapsOnBadAccess_of_read h

/-- The `amo*`, which need both permissions and raise as a store. -/
theorem trapsOnBadAccess_of_amo {op : Nat → Nat} {ext : Nat → Dword} (h : exec i s = s.amo rd a n op ext) :
    TrapsOnBadAccess i s a n [.read, .write] (.storeAMOAddressMisaligned a) (.storeAMOAccessFault a) :=
  trapsOnBadAccess_of_read h

/-- The stores. -/
theorem trapsOnBadAccess_of_store (h : exec i s = s.store a n v) :
    TrapsOnBadAccess i s a n [.write] (.storeAMOAddressMisaligned a) (.storeAMOAccessFault a) :=
  trapsOnBadAccess_of_check (c := .store) fun e he => by rw [h, State.store_eq, he]

/-- `sc`, whatever the reservation. -/
theorem trapsOnBadAccess_of_storeConditional (h : exec i s = s.storeConditional rd a n v) :
    TrapsOnBadAccess i s a n [.write] (.storeAMOAddressMisaligned a) (.storeAMOAccessFault a) :=
  trapsOnBadAccess_of_check (c := .store) fun e he => by rw [h, State.storeConditional_eq, he]

end BadAccess

/-- Settles O26: the nine loads and `lr` read in the class `load`. -/
theorem loadsTrapOnBadAddress : Obligations.LoadsTrapOnBadAddress := by
  intro s rd rs1 imm aq rl a
  simp only [List.forall_mem_cons, List.not_mem_nil, false_implies, implies_true, and_true]
  with_reducible and_intros
  all_goals exact trapsOnBadAccess_of_load rfl

/-- Settles O27: the three operations that store, each at its address. -/
theorem storesTrapOnBadAddress : Obligations.StoresTrapOnBadAddress := by
  intro s rd rs1 rs2 imm aq rl a b
  simp only [List.forall_mem_cons, List.not_mem_nil, false_implies, implies_true, and_true]
  refine ⟨?stores, ?scs, ?amos⟩
  case stores => with_reducible and_intros <;> exact trapsOnBadAccess_of_store rfl
  case scs => with_reducible and_intros <;> exact trapsOnBadAccess_of_storeConditional rfl
  case amos => with_reducible and_intros <;> exact trapsOnBadAccess_of_amo rfl

end Sys2Proof.Machine
end

section
/-! What a shared operation answers, if it answers a next state: the trap, or the update it makes. -/

namespace Sys2Proof.Machine

/-- Reading a CSR leaves the reservation alone. -/
@[simp] theorem State.readCsr_resv (s : State) (c : Csr) : (s.readCsr c).2.resv = s.resv := by cases c <;> rfl

/-- Reading a CSR leaves the fetch view alone. -/
@[simp] theorem State.readCsr_stale (s : State) (c : Csr) : (s.readCsr c).2.stale = s.stale := by cases c <;> rfl

/-- What a CSR access answers, as the reservation and memory see it: a trap, or a state with both as before. -/
theorem State.csrAccess_next {s t : State} {i : Instr} {a : BitVec 12} {rd : Reg} {reads writes : Bool} {new : Dword → Dword}
    (h : s.csrAccess i a rd reads writes new = .next t) :
    (∃ e, t = s.withTrap e) ∨ t.resv = s.resv ∧ t.mem = s.mem ∧ t.stale = s.stale := by
  rw [State.csrAccess_eq] at h
  split at h <;> cases h
  next => exact .inl ⟨_, rfl⟩
  next c _ =>
    split
    next => exact .inl ⟨_, rfl⟩
    next => cases reads <;> cases writes <;> exact .inr ⟨by simp, by simp, by simp⟩

/-- What a transfer of control answers: a state that differs from `linked` in `pc` alone, or the trap. -/
theorem State.jumpTo_next {s linked t : State} {target : Dword} (h : s.jumpTo linked target = .next t) :
    t = linked.setPc target ∨ t = s.withTrap (.instructionAddressMisaligned target) := by
  rw [State.jumpTo_eq] at h
  split_ifs at h <;> cases h
  · exact .inl rfl
  · exact .inr rfl

/-- What a branch answers: a state that differs from `s` in `pc` alone, or the trap. -/
theorem State.branchIf_next {s t : State} {taken : Bool} {off : BitVec 13} (h : s.branchIf taken off = .next t) :
    (∃ target, t = s.setPc target) ∨ ∃ e, t = s.withTrap e := by
  rw [State.branchIf_eq] at h
  split at h
  next =>
    obtain rfl | rfl := State.jumpTo_next h
    · exact .inl ⟨_, rfl⟩
    · exact .inr ⟨_, rfl⟩
  next => cases h; exact .inl ⟨_, rfl⟩

/-- What a store answers: the bytes written at an aligned address, or the trap of its check. -/
theorem State.store_next {s t : State} {a : Dword} {n v : Nat} (h : s.store a n v = .next t) :
    (a.toNat % n = 0 ∧ t = (s.putBytes a.toNat n v).advance) ∨ ∃ e, t = s.withTrap e := by
  rw [State.store_eq] at h
  split at h <;> cases h
  next check => exact .inl ⟨State.aligned_of_checkAccess check, rfl⟩
  next => exact .inr ⟨_, rfl⟩

/-- What an `sc` answers: the trap, or its end with or without the bytes stored, after at most one draw. -/
theorem State.storeConditional_next {s t : State} {rd : Reg} {a : Dword} {n v : Nat}
    (h : s.storeConditional rd a n v = .next t) :
    (∃ e, t = s.withTrap e) ∨
      ∃ u, (u = s ∨ u = s.drawn) ∧
        (t = (u.scFails rd).advance ∨ a.toNat % n = 0 ∧ t = (u.scSucceeds rd a n v).advance) := by
  rw [State.storeConditional_eq] at h
  cases h
  split
  next => exact .inl ⟨_, rfl⟩
  next check =>
    have aligned := State.aligned_of_checkAccess check
    split_ifs
    · exact .inr ⟨_, .inr rfl, .inl rfl⟩
    · exact .inr ⟨_, .inr rfl, .inr ⟨aligned, rfl⟩⟩
    · exact .inr ⟨_, .inl rfl, .inr ⟨aligned, rfl⟩⟩
    · exact .inr ⟨_, .inl rfl, .inl rfl⟩

end Sys2Proof.Machine
end

section
/-! `lr` and `sc` (R66, R330 to R333), and the reservation through every other instruction (R66). -/

namespace Sys2Proof.Machine

-- ==== `lr` ====

/-- An integer register written, and the reservation set or cleared. -/
theorem OnlyChanges.writeX_setResv (s : State) (rd : Reg) (v : Dword) (r : Option Reservation) :
    OnlyChanges { x := some rd, resv := true } s ((s.writeX rd v).setResv r) :=
  { OnlyChanges.writeX s rd v with resvKept := fun h => by cases h }

/-- An `lr` that is ready. -/
theorem completes_of_loadReserved {i : Instr} {s : State} {rd : Reg} {a : Dword} {n : Nat} {ext : Nat → Dword}
    {bs : List Byte} (h : exec i s = s.loadReserved rd a n ext) (ready : LoadReady s a n bs) :
    Completes i s { x := some rd, resv := true } fun t =>
      t.readX rd = written rd (ext (leValue bs)) ∧ t.resv = some ⟨a, n⟩ := by
  rw [State.loadReserved, ready.memRead] at h
  exact ⟨_, h, State.advance_pc_toNat _, (OnlyChanges.writeX_setResv s rd _ _).setPc _, State.readX_writeX_self s rd _, rfl⟩

/-- A doubleword is its own extension. -/
theorem zextFrom_64 (v : Nat) : zextFrom 64 v = BitVec.ofNat 64 v := BitVec.setWidth_eq _

/-- Settles O59. -/
theorem loadReservedCompletes : Obligations.LoadReservedCompletes := by
  intro s rd rs1 aq rl bs a
  refine ⟨fun word => completes_of_loadReserved (ext := sextFrom 32) rfl word, fun dword => ?_⟩
  rw [← zextFrom_64]
  exact completes_of_loadReserved rfl dword

-- ==== `sc` ====

/-- What changes after a draw, the draw included. -/
theorem OnlyChanges.afterDraw {c : Changes} {s t : State} (h : OnlyChanges c s.drawn t) :
    OnlyChanges { c with draws := true } s t :=
  { h with drawsKept := fun h => by cases h }

/-- The changes of an `sc` that does not store. -/
theorem OnlyChanges.scFails (s : State) (rd : Reg) : OnlyChanges { x := some rd, resv := true } s (s.scFails rd) :=
  OnlyChanges.writeX_setResv s rd 1 none

/-- The changes of an `sc` that stores. -/
theorem OnlyChanges.scSucceeds (s : State) (rd : Reg) (a : Dword) (n v : Nat) :
    OnlyChanges { x := some rd, resv := true, stored := some (a.toNat, n), fetchView := true } s (s.scSucceeds rd a n v) :=
  { OnlyChanges.writeX_setResv s rd 0 none with
    memKept := (OnlyChanges.putBytes s a.toNat n v).memKept
    fetchViewKept := fun h => by cases h }

/-- The instruction ends as an `sc` that does not store: 1 in `x[rd]`, the reservation cleared; `drew` where a draw was taken. -/
def ScFails (i : Instr) (s : State) (rd : Reg) (drew : Bool) : Prop :=
  Completes i s { x := some rd, resv := true, draws := drew } fun t => t.readX rd = written rd 1 ∧ t.resv = none

/-- The instruction ends as an `sc` that stores: the bytes written, 0 in `x[rd]`, the reservation cleared. -/
def ScStores (i : Instr) (s : State) (rd : Reg) (a : Dword) (n : Nat) (v : Dword) (drew : Bool) : Prop :=
  Completes i s { x := some rd, resv := true, stored := some (a.toNat, n), fetchView := true, draws := drew } fun t =>
    t.readX rd = written rd 0 ∧ t.resv = none ∧ Holds t a n v

/-- An `sc` that is ready: the reservation decides, and a draw where SC_MAY_FAIL is true. -/
theorem storeConditional_of_ready {i : Instr} {s : State} {rd : Reg} {a : Dword} {n : Nat} {v : Dword}
    (h : exec i s = s.storeConditional rd a n v.toNat) (ready : StoreReady s a n) :
    (s.resv ≠ some ⟨a, n⟩ → ScFails i s rd false) ∧
      (s.resv = some ⟨a, n⟩ → s.params.scMayFail = false → ScStores i s rd a n v false) ∧
      (s.resv = some ⟨a, n⟩ → s.params.scMayFail = true → ScFails i s rd true ∨ ScStores i s rd a n v true) := by
  rw [State.storeConditional_eq, ready.check] at h
  refine ⟨fun unreserved => ?_, fun reserved never => ?_, fun reserved may => ?_⟩
  · simp only [if_neg unreserved] at h
    exact ⟨_, h, State.advance_pc_toNat _, (OnlyChanges.scFails s rd).setPc _, State.readX_writeX_self s rd 1, rfl⟩
  · simp only [if_pos reserved, never, Bool.false_eq_true, if_false] at h
    exact ⟨_, h, State.advance_pc_toNat _, (OnlyChanges.scSucceeds s rd a n _).setPc _, State.readX_writeX_self _ rd 0, rfl,
      holds_putBytes s a n v⟩
  · simp only [if_pos reserved, may, if_true] at h
    split at h
    · exact .inl ⟨_, h, State.advance_pc_toNat _, (OnlyChanges.scFails s.drawn rd).afterDraw.setPc _,
        State.readX_writeX_self s.drawn rd 1, rfl⟩
    · exact .inr ⟨_, h, State.advance_pc_toNat _, (OnlyChanges.scSucceeds s.drawn rd a n _).afterDraw.setPc _,
        State.readX_writeX_self _ rd 0, rfl, holds_putBytes s.drawn a n v⟩

/-- Settles O60. -/
theorem storeConditionalCompletes : Obligations.StoreConditionalCompletes := by
  intro s rd rs1 rs2 aq rl a p form ready
  simp only [List.mem_cons, List.not_mem_nil, or_false] at form
  obtain rfl | rfl := form <;> exact storeConditional_of_ready rfl ready

-- ==== Every other instruction ====

/-- However an instruction but `lr` and `sc` ends, it raises or leaves the reservation. -/
theorem Ending.resv_next {s t : State} {i : Instr} {r : Result} (h : Ending s i r) (other : ¬ IsReservation i)
    (ht : r = .next t) : (∃ e, t = s.withTrap e) ∨ t.resv = s.resv := by
  cases h with
  | writeX | writeF | writeXFlags | writeFFlags | completes | syncFetch => cases ht; exact .inr rfl
  | takeTrap e => cases ht; exact .inl ⟨e, rfl⟩
  | branchIf =>
    obtain ⟨_, rfl⟩ | raised := State.branchIf_next ht
    · exact .inr rfl
    · exact .inl raised
  | jumpTo =>
    obtain rfl | raised := State.jumpTo_next ht
    · exact .inr rfl
    · exact .inl ⟨_, raised⟩
  | loadX | loadF | amo =>
    obtain ⟨_, _, _, rfl⟩ | ⟨e, _, raised⟩ := State.read_finish_next ht
    · exact .inr rfl
    · exact .inl ⟨e, raised⟩
  | store =>
    obtain ⟨_, rfl⟩ | raised := State.store_next ht
    · exact .inr rfl
    · exact .inl raised
  | loadReserved _ _ _ _ isLr => exact absurd isLr other
  | storeConditional _ _ _ _ isSc => exact absurd isSc other
  | csrAccess => exact (State.csrAccess_next ht).imp_right And.left

/-- Settles O17. -/
theorem onlyReservationInstructionsTouchReservation : Obligations.OnlyReservationInstructionsTouchReservation := by
  intro i s t other _ executed running
  obtain ⟨e, rfl⟩ | kept := (exec_ending i s).resv_next other executed
  · cases running
  · exact kept

end Sys2Proof.Machine
end

section
/-! The fetch view (R40, R64): what a fetch sees, and what every instruction leaves it to see. -/

namespace Sys2Proof.Machine

-- ==== A fetch ====

/-- A fetch sees one of its choices, whatever is drawn. -/
theorem State.fetch_mem_fetchChoices (s : State) : s.fetch.1 ∈ s.fetchChoices s.pc.toNat := by
  have current : s.mem.wordAt s.pc.toNat ∈ s.fetchChoices s.pc.toNat := (s.mem_fetchChoices _ _).mpr (.inr rfl)
  simp only [State.fetch]
  split
  · exact current
  · have index := Nat.mod_lt (Config.freeChoice s.draws) (List.length_pos_of_mem current)
    simp only [List.getD_eq_getElem?_getD, List.getElem?_eq_getElem index, Option.getD_some]
    exact List.getElem_mem index

/-- A step of a hart that runs, at an aligned `pc` that may be executed, runs the word fetched (R425). -/
theorem step_of_fetch {s : State} {v : Word} (running : s.trap = none) (aligned : s.pc.toNat % 4 = 0)
    (executable : ∀ k < 4, permits s.params .execute (s.pc.toNat + k) = true) (fetched : s.fetch.1 = some v) :
    step s = runWord v s.fetch.2 := by
  have allowed := (permitsAll_iff s.params .execute s.pc.toNat 4).mpr executable
  have pair : s.fetch = (some v, s.fetch.2) := Prod.ext fetched rfl
  simp only [step, stepUnder, running, hartStep, aligned, ne_eq, not_true_eq_false, allowed, if_true, if_false]
  rw [pair]

/-- Settles O7: the value fetched is a choice of the fetch, and the fetch changes at most the count of draws. -/
theorem staleFetchRunsOldOrNewWord : Obligations.StaleFetchRunsOldOrNewWord := by
  intro s w running aligned executable current old
  have drew : ∃ d, s.fetch.2 = { s with draws := d } := s.fetch_state.elim (⟨s.draws, ·⟩) (⟨s.draws + 1, ·⟩)
  obtain ⟨d, drew⟩ := drew
  have choice := (s.mem_fetchChoices _ _).mp s.fetch_mem_fetchChoices
  rw [current] at choice
  obtain ⟨e, held, here, value⟩ | fetched := choice
  · obtain ⟨v, hv⟩ := Option.ne_none_iff_exists'.mp (old e held here)
    refine ⟨v, d, ?_, .inr ⟨e, held, here, hv⟩⟩
    rw [← drew, step_of_fetch running aligned executable (value.symm.trans hv)]
  · exact ⟨w, d, by rw [← drew, step_of_fetch running aligned executable fetched], .inl rfl⟩

-- ==== What an instruction leaves to a fetch ====

/-- What a fetch sees depends on memory and on the older values held. -/
theorem State.fetchChoices_congr {s t : State} (mem : t.mem = s.mem) (stale : t.stale = s.stale) (w : Nat) :
    t.fetchChoices w = s.fetchChoices w := by
  rw [State.fetchChoices, State.fetchChoices, mem, stale]

/-- From `s` to `t` a fetch loses no value: of each word it may see in `t` what it could see in `s`, and the current value. -/
def KeepsFetchable (s t : State) : Prop :=
  ∀ w, w % 4 = 0 → ∀ v, v ∈ t.fetchChoices w ↔ v ∈ s.fetchChoices w ∨ v = t.mem.wordAt w

/-- An update of neither memory nor the older values keeps what may be fetched. -/
theorem KeepsFetchable.of_eq {s t : State} (mem : t.mem = s.mem) (stale : t.stale = s.stale) : KeepsFetchable s t := by
  intro w _ v
  rw [State.fetchChoices_congr mem stale, mem, State.mem_fetchChoices, or_assoc, or_self]

/-- A state with the memory and the older values of an aligned store keeps what may be fetched. -/
theorem KeepsFetchable.of_putBytes {s t : State} {a n v : Nat} (size : n = 1 ∨ n = 2 ∨ n = 4 ∨ n = 8) (aligned : a % n = 0)
    (mem : t.mem = (s.putBytes a n v).mem) (stale : t.stale = (s.putBytes a n v).stale) : KeepsFetchable s t := by
  intro w hw x
  rw [State.fetchChoices_congr mem stale, mem]
  exact s.mem_fetchChoices_putBytes v x size aligned hw

/-- However an instruction but `fence.i` ends, it keeps what may be fetched. -/
theorem Ending.keepsFetchable {s t : State} {i : Instr} {r : Result} (h : Ending s i r)
    (other : ∀ imm rs1 rd, i ≠ .fenceI imm rs1 rd) (ht : r = .next t) : KeepsFetchable s t := by
  cases h with
  | writeX | writeF | writeXFlags | writeFFlags | completes | takeTrap => cases ht; exact .of_eq rfl rfl
  | syncFetch => exact absurd rfl (other _ _ _)
  | branchIf => obtain ⟨_, rfl⟩ | ⟨_, rfl⟩ := State.branchIf_next ht <;> exact .of_eq rfl rfl
  | jumpTo => obtain rfl | rfl := State.jumpTo_next ht <;> exact .of_eq rfl rfl
  | loadX | loadF | loadReserved =>
    obtain ⟨_, _, _, rfl⟩ | ⟨_, _, rfl⟩ := State.read_finish_next ht <;> exact .of_eq rfl rfl
  | store _ _ size =>
    obtain ⟨aligned, rfl⟩ | ⟨_, rfl⟩ := State.store_next ht
    · exact .of_putBytes size aligned rfl rfl
    · exact .of_eq rfl rfl
  | amo _ _ _ _ size =>
    obtain ⟨_, check, _, rfl⟩ | ⟨_, _, rfl⟩ := State.read_finish_next ht
    · exact .of_putBytes (.inr (.inr size)) (State.aligned_of_checkAccess check) rfl rfl
    · exact .of_eq rfl rfl
  | storeConditional _ _ _ size =>
    obtain ⟨_, rfl⟩ | ⟨u, rfl | rfl, rfl | ⟨aligned, rfl⟩⟩ := State.storeConditional_next ht
    · exact .of_eq rfl rfl
    · exact .of_eq rfl rfl
    · exact .of_putBytes (.inr (.inr size)) aligned rfl rfl
    · exact .of_eq rfl rfl
    · exact .of_putBytes (.inr (.inr size)) aligned rfl rfl
  | csrAccess =>
    obtain ⟨_, rfl⟩ | ⟨_, mem, stale⟩ := State.csrAccess_next ht
    · exact .of_eq rfl rfl
    · exact .of_eq mem stale

/-- Settles O29: the value a word held was among what a fetch could see. -/
theorem storeLeavesOldValueToFetch : Obligations.StoreLeavesOldValueToFetch := by
  intro i s t w other aligned executed
  have kept := (exec_ending i s).keepsFetchable other executed w aligned
  exact ⟨(kept _).mpr (.inl ((s.mem_fetchChoices _ _).mpr (.inr rfl))), kept⟩

end Sys2Proof.Machine
end

section
/-! Loads of any width of what a store left (R52, R61). -/

namespace Sys2Proof.Machine

/-- The `n` bytes of a value, the least significant first (R52). -/
def leBytes (n v : Nat) : List Byte := List.ofFn fun k : Fin n => BitVec.ofNat 8 (v / 2 ^ (8 * k.val))

/-- The bytes of a value make its low `8n` bits. -/
theorem leValue_leBytes (n : Nat) : ∀ v, leValue (leBytes n v) = v % 2 ^ (8 * n) := by
  induction n with
  | zero => intro v; simp [leBytes, leValue, Nat.mod_one]
  | succ n ih =>
    intro v
    have rest : (List.ofFn fun k : Fin n => BitVec.ofNat 8 (v / 2 ^ (8 * k.succ.val))) = leBytes n (v / 2 ^ 8) := by
      refine congrArg List.ofFn (funext fun k => ?_)
      rw [Nat.div_div_eq_div_mul, ← pow_add, Fin.val_succ, Nat.mul_succ, Nat.add_comm 8]
    rw [leBytes, List.ofFn_succ, leValue, rest, ih, Nat.mul_succ, Nat.add_comm (8 * n), pow_add, Nat.mod_mul]
    simp

/-- Part of the bytes that a store left, aligned and readable, is ready to load. -/
theorem loadReady_of_holds {t : State} {a : Dword} {k n m : Nat} {v : Dword} (stored : Holds t a m v)
    (readable : ∀ j < m, permits t.params .read (a.toNat + j) = true) (space : a.toNat + m ≤ 2 ^ 64) (inside : k + n ≤ m)
    (positive : 0 < n) (aligned : (a.toNat + k) % n = 0) :
    LoadReady t (a + BitVec.ofNat 64 k) n (leBytes n (v.toNat / 2 ^ (8 * k))) := by
  have address : (a + BitVec.ofNat 64 k).toNat = a.toNat + k := by
    rw [BitVec.toNat_add, BitVec.toNat_ofNat]
    omega
  refine ⟨by rwa [address], fun j hj => ?_, List.length_ofFn, fun j hj => ?_⟩
  · rw [address, Nat.add_assoc]
    exact readable _ (by omega)
  · have hj' : j < n := by simpa [leBytes] using hj
    rw [address, Nat.add_assoc, stored (k + j) (by omega)]
    refine congrArg some (BitVec.eq_of_toNat_eq ?_)
    simp [leBytes, BitVec.extractLsb'_toNat, Nat.shiftRight_eq_div_pow, Nat.div_div_eq_div_mul, ← pow_add, Nat.mul_add]

/-- The low bits of a value from bit `k` on, as a load puts them together. -/
theorem ofNat_leValue_leBytes (n k : Nat) (v : Dword) :
    BitVec.ofNat (8 * n) (leValue (leBytes n (v.toNat / 2 ^ k))) = v.extractLsb' k (8 * n) := by
  rw [leValue_leBytes]
  apply BitVec.eq_of_toNat_eq
  simp [BitVec.extractLsb'_toNat, Nat.shiftRight_eq_div_pow]

/-- Settles O28: what `sd` left holds the value, and each load reads its part of it. -/
theorem mixedWidthLoadsSeeTheStoredBytes : Obligations.MixedWidthLoadsSeeTheStoredBytes := by
  intro s t rd rs1 rs2 imm k a ready readable executed
  have space := aligned_in_space a 8 (by decide) ready.aligned
  have after : t = (s.putBytes a.toNat 8 (s.readX rs2).toNat).advance := by
    have stores : exec (.sd rs1 rs2 imm) s = s.store a 8 (s.readX rs2).toNat := rfl
    rw [stores, State.store_eq, ready.check] at executed
    cases executed
    rfl
  have stored : Holds t a 8 (s.readX rs2) := after ▸ holds_putBytes s a 8 (s.readX rs2)
  have readable' : ∀ j < 8, permits t.params .read (a.toNat + j) = true := after ▸ readable
  have part {k n : Nat} (inside : k + n ≤ 8) := loadReady_of_holds stored readable' space inside
  have multiple := ready.aligned
  refine ⟨?ld, fun rb inside base => ?narrow⟩
  case ld =>
    have address : t.effAddr rs1 imm = a + BitVec.ofNat 64 0 := by
      rw [after, State.advance_effAddr, State.putBytes_effAddr]
      exact (BitVec.add_zero a).symm
    have loads : exec (.ld rd rs1 imm) t = t.loadX rd (a + BitVec.ofNat 64 0) 8 (zextFrom 64) := address ▸ rfl
    refine completesX_of_loadX loads (part (by omega) (by omega) (by omega)) ?_
    rw [zextFrom_64, ofNat_leValue_leBytes 8]
    exact BitVec.extractLsb'_eq_self
  case narrow =>
    have address : t.effAddr rb 0 = a + BitVec.ofNat 64 k := by
      rw [State.effAddr, base]
      exact BitVec.add_zero _
    refine ⟨?lb, fun even => ?lhu, fun four => ?lw⟩
    case lb =>
      have loads : exec (.lb rd rb 0) t = t.loadX rd (a + BitVec.ofNat 64 k) 1 (sextFrom 8) := address ▸ rfl
      exact completesX_of_loadX loads (part (by omega) (by omega) (by omega))
        (congrArg (BitVec.signExtend 64) (ofNat_leValue_leBytes 1 _ _))
    case lhu =>
      have loads : exec (.lhu rd rb 0) t = t.loadX rd (a + BitVec.ofNat 64 k) 2 (zextFrom 16) := address ▸ rfl
      exact completesX_of_loadX loads (part (by omega) (by omega) (by omega))
        (congrArg (BitVec.setWidth 64) (ofNat_leValue_leBytes 2 _ _))
    case lw =>
      have loads : exec (.lw rd rb 0) t = t.loadX rd (a + BitVec.ofNat 64 k) 4 (sextFrom 32) := address ▸ rfl
      exact completesX_of_loadX loads (part (by omega) (by omega) (by omega))
        (congrArg (BitVec.signExtend 64) (ofNat_leValue_leBytes 4 _ _))

end Sys2Proof.Machine
end

section
/-! The pieces of an immediate (30_encoding.md R83, R85 to R90): what the decoder puts together out of the fields, the encoder
cuts into the same fields again. The other direction is in `Laws/Decode`. -/

namespace Sys2Proof

/-- A piece of a concatenation that lies in its upper part. -/
theorem extractLsb'_append_upper {v w : Nat} {hi : BitVec v} {lo : BitVec w} (start len : Nat) :
    (hi ++ lo).extractLsb' (w + start) len = hi.extractLsb' start len := by
  rw [BitVec.extractLsb'_append_eq_of_le (Nat.le_add_right w start), Nat.add_sub_cancel_left]

/-- Two adjacent pieces make one. -/
theorem extractLsb'_join {n : Nat} (v : BitVec n) (start len len' : Nat) :
    v.extractLsb' (start + len) len' ++ v.extractLsb' start len = v.extractLsb' start (len' + len) :=
  BitVec.extractLsb'_append_extractLsb'_eq_extractLsb' rfl

-- ==== Formats I and S, and `fence` ====

/-- Bits 31:25 of formats I and S. -/
theorem immI_high (f7 : BitVec 7) (lo : Reg) : (immI f7 lo).extractLsb' 5 7 = f7 := BitVec.extractLsb'_append_eq_left

/-- The five low bits of formats I and S. -/
theorem immI_low (f7 : BitVec 7) (lo : Reg) : (immI f7 lo).extractLsb' 0 5 = lo := BitVec.extractLsb'_append_eq_right

/-- The three fields of a `fence`, cut out of its 12 bits. -/
theorem fence_fields (fm pred succ : BitVec 4) :
    (fm ++ pred ++ succ : BitVec 12).extractLsb' 8 4 = fm ∧ (fm ++ pred ++ succ : BitVec 12).extractLsb' 4 4 = pred ∧
      (fm ++ pred ++ succ : BitVec 12).extractLsb' 0 4 = succ :=
  ⟨(extractLsb'_append_upper 4 4).trans BitVec.extractLsb'_append_eq_left,
    (extractLsb'_append_upper 0 4).trans BitVec.extractLsb'_append_eq_right, BitVec.extractLsb'_append_eq_right⟩

/-- The three fields of a `fence`, put together. -/
theorem fence_imm (imm : BitVec 12) : imm.extractLsb' 8 4 ++ imm.extractLsb' 4 4 ++ imm.extractLsb' 0 4 = imm := by
  rw [extractLsb'_join imm 4 4 4, extractLsb'_join imm 0 4 8]
  exact BitVec.extractLsb'_eq_self

-- ==== Formats SB, U and UJ ====

/-- The four pieces of the offset of format SB. -/
theorem immSB_pieces (f7 : BitVec 7) (rd : Reg) :
    (immSB f7 rd).extractLsb' 12 1 = f7.extractLsb' 6 1 ∧ (immSB f7 rd).extractLsb' 5 6 = f7.extractLsb' 0 6 ∧
      (immSB f7 rd).extractLsb' 1 4 = rd.extractLsb' 1 4 ∧ (immSB f7 rd).extractLsb' 11 1 = rd.extractLsb' 0 1 :=
  ⟨(extractLsb'_append_upper 11 1).trans ((extractLsb'_append_upper 7 1).trans
      ((extractLsb'_append_upper 1 1).trans BitVec.extractLsb'_append_eq_left)),
    (extractLsb'_append_upper 4 6).trans ((extractLsb'_append_upper 0 6).trans BitVec.extractLsb'_append_eq_right),
    (extractLsb'_append_upper 0 4).trans BitVec.extractLsb'_append_eq_right,
    (extractLsb'_append_upper 10 1).trans ((extractLsb'_append_upper 6 1).trans
      ((extractLsb'_append_upper 0 1).trans BitVec.extractLsb'_append_eq_right))⟩

/-- An offset out of the fields of format SB is even. -/
theorem immSB_even (f7 : BitVec 7) (rd : Reg) : (!(immSB f7 rd).getLsbD 0) = true :=
  congrArg not (BitVec.getLsbD_append ..)

/-- The four fields of format U. -/
theorem immU_pieces (f7 : BitVec 7) (rs2 rs1 : Reg) (f3 : BitVec 3) :
    (immU f7 rs2 rs1 f3).extractLsb' 13 7 = f7 ∧ (immU f7 rs2 rs1 f3).extractLsb' 8 5 = rs2 ∧
      (immU f7 rs2 rs1 f3).extractLsb' 3 5 = rs1 ∧ (immU f7 rs2 rs1 f3).extractLsb' 0 3 = f3 :=
  ⟨(extractLsb'_append_upper 10 7).trans ((extractLsb'_append_upper 5 7).trans BitVec.extractLsb'_append_eq_left),
    (extractLsb'_append_upper 5 5).trans ((extractLsb'_append_upper 0 5).trans BitVec.extractLsb'_append_eq_right),
    (extractLsb'_append_upper 0 5).trans BitVec.extractLsb'_append_eq_right, BitVec.extractLsb'_append_eq_right⟩

/-- The four pieces of the offset of format UJ. -/
theorem immUJ_pieces (u : BitVec 20) :
    (immUJ u).extractLsb' 20 1 = u.extractLsb' 19 1 ∧ (immUJ u).extractLsb' 1 10 = u.extractLsb' 9 10 ∧
      (immUJ u).extractLsb' 11 1 = u.extractLsb' 8 1 ∧ (immUJ u).extractLsb' 12 8 = u.extractLsb' 0 8 :=
  ⟨(extractLsb'_append_upper 19 1).trans ((extractLsb'_append_upper 9 1).trans
      ((extractLsb'_append_upper 8 1).trans BitVec.extractLsb'_append_eq_left)),
    (extractLsb'_append_upper 0 10).trans BitVec.extractLsb'_append_eq_right,
    (extractLsb'_append_upper 10 1).trans ((extractLsb'_append_upper 0 1).trans BitVec.extractLsb'_append_eq_right),
    (extractLsb'_append_upper 11 8).trans ((extractLsb'_append_upper 1 8).trans
      ((extractLsb'_append_upper 0 8).trans BitVec.extractLsb'_append_eq_right))⟩

/-- The bits 31:12 of the offset they stand for. -/
theorem fieldUJ_immUJ (u : BitVec 20) : fieldUJ (immUJ u) = u := by
  obtain ⟨bit20, bits10, bit11, bits19⟩ := immUJ_pieces u
  rw [fieldUJ, bit20, bits10, bit11, bits19, extractLsb'_join u 9 10 1, extractLsb'_join u 8 1 11,
    extractLsb'_join u 0 8 12]
  exact BitVec.extractLsb'_eq_self

/-- An offset out of the bits of format UJ is even. -/
theorem immUJ_even (u : BitVec 20) : (!(immUJ u).getLsbD 0) = true := congrArg not (BitVec.getLsbD_append ..)

-- ==== The pieces of funct7 ====

/-- The five-bit code of an atomic instruction. -/
theorem funct5_amo (f5 : BitVec 5) (aq rl : Bool) :
    (f5 ++ BitVec.ofBool aq ++ BitVec.ofBool rl : BitVec 7).extractLsb' 2 5 = f5 :=
  (extractLsb'_append_upper 1 5).trans BitVec.extractLsb'_append_eq_left

/-- The ordering bit `aq` of an atomic instruction. -/
theorem aq_amo (f5 : BitVec 5) (aq rl : Bool) : (f5 ++ BitVec.ofBool aq ++ BitVec.ofBool rl : BitVec 7).getLsbD 1 = aq := by
  revert f5 aq rl
  decide

/-- The ordering bit `rl` of an atomic instruction. -/
theorem rl_amo (f5 : BitVec 5) (aq rl : Bool) : (f5 ++ BitVec.ofBool aq ++ BitVec.ofBool rl : BitVec 7).getLsbD 0 = rl := by
  revert f5 aq rl
  decide

/-- The funct7 field of an atomic instruction is its code and its two ordering bits. -/
theorem amo_pieces (f7 : BitVec 7) :
    f7.extractLsb' 2 5 ++ BitVec.ofBool (f7.getLsbD 1) ++ BitVec.ofBool (f7.getLsbD 0) = f7 := by
  revert f7
  decide

end Sys2Proof
end

section
/-! Decoding after encoding (30_encoding.md R81 to R90). There is one lemma for each format: the word of a format decodes to `i`
if the opcode map answers `i` for every choice of fields that stand for the same operands. Each instruction is then its format
and its place in the opcode map. -/

namespace Sys2Proof

section Formats

variable {i : Instr} {rs2 rs1 : Reg} {f3 : BitVec 3} {rd : Reg} {op : BitVec 7}

/-- Format I. -/
theorem decode_encI {imm : BitVec 12}
    (h : ∀ f7 rs2, immI f7 rs2 = imm → decodeFields f7 rs2 rs1 f3 rd op = .ok i) :
    decode (encI imm rs1 f3 rd op) = .ok i :=
  (decode_encR ..).trans (h _ _ (immI_split imm))

/-- Format S. -/
theorem decode_encS {imm : BitVec 12}
    (h : ∀ f7 rd, immS f7 rd = imm → decodeFields f7 rs2 rs1 f3 rd op = .ok i) :
    decode (encS imm rs2 rs1 f3 op) = .ok i :=
  (decode_encR ..).trans (h _ _ (immS_split imm))

/-- Format SB; the encoding has no place for bit 0 of the offset. -/
theorem decode_encSB {off : BitVec 13} (even : (!off.getLsbD 0) = true)
    (h : ∀ f7 rd, immSB f7 rd = off → decodeFields f7 rs2 rs1 f3 rd op = .ok i) :
    decode (encSB off rs2 rs1 f3 op) = .ok i :=
  (decode_encR ..).trans (h _ _ (immSB_split off ((Bool.not_eq_true' _).mp even)))

/-- Format U, and format UJ on its bits 31:12. -/
theorem decode_encU {u : BitVec 20}
    (h : ∀ f7 rs2 rs1 f3, immU f7 rs2 rs1 f3 = u → decodeFields f7 rs2 rs1 f3 rd op = .ok i) :
    decode (encU u rd op) = .ok i :=
  (decode_encR ..).trans (h _ _ _ _ (immU_split u))

/-- I-shift64. -/
theorem decode_encShift6 {f6 shamt : BitVec 6}
    (h : ∀ f7 rs2, f7.extractLsb' 1 6 = f6 → shamt6 f7 rs2 = shamt → decodeFields f7 rs2 rs1 f3 rd op = .ok i) :
    decode (encShift6 f6 shamt rs1 f3 rd op) = .ok i :=
  (decode_encR ..).trans (h _ _ BitVec.extractLsb'_append_eq_left (shamt6_split f6 shamt))

/-- R-amo. -/
theorem decode_encAmo {f5 : BitVec 5} {aq rl : Bool}
    (h : ∀ f7 : BitVec 7, f7.extractLsb' 2 5 = f5 → f7.getLsbD 1 = aq → f7.getLsbD 0 = rl →
      decodeFields f7 rs2 rs1 f3 rd op = .ok i) :
    decode (encAmo f5 aq rl rs2 rs1 f3 rd op) = .ok i :=
  (decode_encR ..).trans (h _ (funct5_amo f5 aq rl) (aq_amo f5 aq rl) (rl_amo f5 aq rl))

/-- R4. -/
theorem decode_encR4 {rs3 : Reg} {fmt : BitVec 2}
    (h : ∀ f7 : BitVec 7, f7.extractLsb' 0 2 = fmt → f7.extractLsb' 2 5 = rs3 → decodeFields f7 rs2 rs1 f3 rd op = .ok i) :
    decode (encR4 rs3 fmt rs2 rs1 f3 rd op) = .ok i :=
  (decode_encR ..).trans (h _ BitVec.extractLsb'_append_eq_right BitVec.extractLsb'_append_eq_left)

end Formats

/-- Settles O2, by the format of each instruction and its arm of the decoder. -/
theorem decodeInvertsEncode : Obligations.DecodeInvertsEncode := by
  intro i wf
  cases i with
  | add | addw | and | or | sll | sllw | slliw | slt | sltu | sra | sraw | sraiw | srl | srlw | srliw | sub | subw | xor
  | mul | mulw | mulh | mulhu | mulhsu | div | divw | divu | divuw | rem | remw | remu | remuw
  | fsgnjS | fsgnjD | fsgnjnS | fsgnjnD | fsgnjxS | fsgnjxD | fminS | fminD | fmaxS | fmaxD
  | feqS | feqD | fltS | fltD | fleS | fleD | fclassS | fclassD | fmvSX | fmvDX | fmvXS | fmvXD
  | faddS | faddD | fsubS | fsubD | fmulS | fmulD | fdivS | fdivD | fsqrtS | fsqrtD | fcvtSD | fcvtDS
  | fcvtSW | fcvtDW | fcvtSL | fcvtDL | fcvtSWu | fcvtDWu | fcvtSLu | fcvtDLu
  | fcvtWS | fcvtWD | fcvtLS | fcvtLD | fcvtWuS | fcvtWuD | fcvtLuS | fcvtLuD => exact decode_encR ..
  | addi | addiw | andi | ori | slti | sltiu | xori | jalr | lb | lbu | lh | lhu | lw | lwu | ld
  | csrrw | csrrs | csrrc | csrrwi | csrrsi | csrrci | fenceI | flw | fld =>
    exact decode_encI (by rintro _ _ rfl; rfl)
  | ecall | ebreak => rfl
  | fence fm pred succ rs1 rd =>
    refine decode_encI fun f7 rs2 fields => ?_
    show decodeMiscMem (immI f7 rs2) rs1 0b000#3 rd = _
    obtain ⟨hfm, hpred, hsucc⟩ := fence_fields fm pred succ
    rw [fields, decodeMiscMem, hfm, hpred, hsucc]
  | sb | sh | sw | sd | fsw | fsd => exact decode_encS (by rintro _ _ rfl; rfl)
  | beq | bne | blt | bge | bltu | bgeu => exact decode_encSB wf (by rintro _ _ rfl; rfl)
  | auipc | lui => exact decode_encU (by rintro _ _ _ _ rfl; rfl)
  | jal rd off =>
    refine decode_encU fun f7 rs2 rs1 f3 fields => ?_
    show Except.ok (Instr.jal rd (immUJ (immU f7 rs2 rs1 f3))) = _
    rw [fields, immUJ_split off ((Bool.not_eq_true' _).mp wf)]
  | slli | srli | srai =>
    refine decode_encShift6 ?_
    rintro f7 rs2 code rfl
    simp only [decodeFields, decodeOpImm, code]
  | amoaddW | amoandW | amomaxW | amomaxuW | amominW | amominuW | amoorW | amoswapW | amoxorW | lrW | scW
  | amoaddD | amoandD | amomaxD | amomaxuD | amominD | amominuD | amoorD | amoswapD | amoxorD | lrD | scD =>
    refine decode_encAmo ?_
    rintro f7 code rfl rfl
    simp only [decodeFields, decodeAmo, decodeAmoW, decodeAmoD, code, if_true]
  | fmaddS | fmaddD | fmsubS | fmsubD | fnmaddS | fnmaddD | fnmsubS | fnmsubD =>
    refine decode_encR4 ?_
    rintro f7 fmt rfl
    simp only [decodeFields, decodeFmadd, decodeFmsub, decodeFnmadd, decodeFnmsub, fmt]

end Sys2Proof
end

section
/-! Encoding after decoding (30_encoding.md R81 to R90): one lemma for each format, then one for each group of the opcode map,
in the order of the decoder. -/

namespace Sys2Proof

-- ==== The word of a format, out of its fields ====

section Formats

variable {f7 : BitVec 7} {rs2 rs1 : Reg} {f3 : BitVec 3} {rd : Reg} {op : BitVec 7}

/-- Format I. -/
theorem encI_immI : encI (immI f7 rs2) rs1 f3 rd op = encR f7 rs2 rs1 f3 rd op := by rw [encI, immI_high, immI_low]

/-- Format S. -/
theorem encS_immS : encS (immS f7 rd) rs2 rs1 f3 op = encR f7 rs2 rs1 f3 rd op := by
  rw [encS, immS, ← immI, immI_high, immI_low]

/-- Format SB. -/
theorem encSB_immSB : encSB (immSB f7 rd) rs2 rs1 f3 op = encR f7 rs2 rs1 f3 rd op := by
  obtain ⟨bit12, bits10, bits4, bit11⟩ := immSB_pieces f7 rd
  rw [encSB, bit12, bits10, bits4, bit11, extractLsb'_join f7 0 6 1, extractLsb'_join rd 0 1 4]
  exact congrArg₂ (encR · rs2 rs1 f3 · op) BitVec.extractLsb'_eq_self BitVec.extractLsb'_eq_self

/-- Format U. -/
theorem encU_immU : encU (immU f7 rs2 rs1 f3) rd op = encR f7 rs2 rs1 f3 rd op := by
  obtain ⟨hf7, hrs2, hrs1, hf3⟩ := immU_pieces f7 rs2 rs1 f3
  rw [encU, hf7, hrs2, hrs1, hf3]

/-- I-shift64. -/
theorem encShift6_shamt6 {f6 : BitVec 6} (code : f7.extractLsb' 1 6 = f6) :
    encShift6 f6 (shamt6 f7 rs2) rs1 f3 rd op = encR f7 rs2 rs1 f3 rd op := by
  have high : (shamt6 f7 rs2).extractLsb' 5 1 = f7.extractLsb' 0 1 := BitVec.extractLsb'_append_eq_left
  have low : (shamt6 f7 rs2).extractLsb' 0 5 = rs2 := BitVec.extractLsb'_append_eq_right
  rw [encShift6, high, low, ← code, extractLsb'_join f7 0 1 6]
  exact congrArg (encR · rs2 rs1 f3 rd op) BitVec.extractLsb'_eq_self

/-- R-amo. -/
theorem encAmo_funct5 {f5 : BitVec 5} (code : f7.extractLsb' 2 5 = f5) :
    encAmo f5 (f7.getLsbD 1) (f7.getLsbD 0) rs2 rs1 f3 rd op = encR f7 rs2 rs1 f3 rd op := by
  rw [encAmo, ← code, amo_pieces]

/-- R4. -/
theorem encR4_rs3 {fmt : BitVec 2} (code : f7.extractLsb' 0 2 = fmt) :
    encR4 (f7.extractLsb' 2 5) fmt rs2 rs1 f3 rd op = encR f7 rs2 rs1 f3 rd op := by
  rw [encR4, ← code, extractLsb'_join f7 0 2 5]
  exact congrArg (encR · rs2 rs1 f3 rd op) BitVec.extractLsb'_eq_self

end Formats

-- ==== The groups of the opcode map (R91) ====

/-- A decoder's answer is no instruction, or a well-formed one whose word is `w`. -/
def EncodesTo (d : Decoded) (w : Word) : Prop := ∀ i, d = .ok i → i.WellFormed ∧ encode i = w

/-- The one instruction that the fields decode to without a choice. -/
theorem encodesTo_ok {i : Instr} {w : Word} (wf : i.WellFormed) (word : encode i = w) : EncodesTo (.ok i) w := by
  intro j h
  cases h
  exact ⟨wf, word⟩

/-- A decoder that lists funct3 000 to 110 leaves 111. -/
theorem funct3_last : ∀ f3 : BitVec 3, f3 ≠ 0#3 → f3 ≠ 1#3 → f3 ≠ 2#3 → f3 ≠ 3#3 → f3 ≠ 4#3 → f3 ≠ 5#3 → f3 ≠ 6#3 →
    f3 = 7#3 := by
  intros
  bv_omega

section Groups

variable {f7 : BitVec 7} {rs2 rs1 : Reg} {f3 : BitVec 3} {rd : Reg}

/-- LOAD. -/
theorem decodeLoad_encodesTo : EncodesTo (decodeLoad (immI f7 rs2) rs1 f3 rd) (encR f7 rs2 rs1 f3 rd 0b0000011#7) := by
  intro i h
  unfold decodeLoad at h
  split at h <;> cases h <;> exact ⟨rfl, encI_immI⟩

/-- LOAD-FP. -/
theorem decodeLoadFp_encodesTo :
    EncodesTo (decodeLoadFp (immI f7 rs2) rs1 f3 rd) (encR f7 rs2 rs1 f3 rd 0b0000111#7) := by
  intro i h
  unfold decodeLoadFp at h
  split at h <;> cases h <;> exact ⟨rfl, encI_immI⟩

/-- MISC-MEM. -/
theorem decodeMiscMem_encodesTo :
    EncodesTo (decodeMiscMem (immI f7 rs2) rs1 f3 rd) (encR f7 rs2 rs1 f3 rd 0b0001111#7) := by
  intro i h
  unfold decodeMiscMem at h
  split at h <;> cases h
  · exact ⟨rfl, (congrArg (encI · rs1 0b000#3 rd 0b0001111#7) (fence_imm _)).trans encI_immI⟩
  · exact ⟨rfl, encI_immI⟩

/-- OP-IMM. -/
theorem decodeOpImm_encodesTo : EncodesTo (decodeOpImm f7 rs2 rs1 f3 rd) (encR f7 rs2 rs1 f3 rd 0b0010011#7) := by
  intro i h
  unfold decodeOpImm at h
  split at h
  case h_2 | h_6 => split at h <;> cases h <;> exact ⟨rfl, encShift6_shamt6 ‹_›⟩
  case h_8 =>
    obtain rfl := funct3_last _ ‹_› ‹_› ‹_› ‹_› ‹_› ‹_› ‹_›
    cases h
    exact ⟨rfl, encI_immI⟩
  all_goals
    cases h
    exact ⟨rfl, encI_immI⟩

/-- OP-IMM-32. -/
theorem decodeOpImm32_encodesTo : EncodesTo (decodeOpImm32 f7 rs2 rs1 f3 rd) (encR f7 rs2 rs1 f3 rd 0b0011011#7) := by
  intro i h
  unfold decodeOpImm32 at h
  split at h
  case h_1 => cases h; exact ⟨rfl, encI_immI⟩
  case h_2 | h_3 => split at h <;> cases h <;> exact ⟨rfl, rfl⟩
  case h_4 => cases h

/-- STORE. -/
theorem decodeStore_encodesTo : EncodesTo (decodeStore f7 rs2 rs1 f3 rd) (encR f7 rs2 rs1 f3 rd 0b0100011#7) := by
  intro i h
  unfold decodeStore at h
  split at h <;> cases h <;> exact ⟨rfl, encS_immS⟩

/-- STORE-FP. -/
theorem decodeStoreFp_encodesTo : EncodesTo (decodeStoreFp f7 rs2 rs1 f3 rd) (encR f7 rs2 rs1 f3 rd 0b0100111#7) := by
  intro i h
  unfold decodeStoreFp at h
  split at h <;> cases h <;> exact ⟨rfl, encS_immS⟩

/-- OP. -/
theorem decodeOp_encodesTo : EncodesTo (decodeOp f7 rs2 rs1 f3 rd) (encR f7 rs2 rs1 f3 rd 0b0110011#7) := by
  intro i h
  unfold decodeOp at h
  split at h
  case h_1 | h_2 =>
    split at h
    case h_8 =>
      obtain rfl := funct3_last _ ‹_› ‹_› ‹_› ‹_› ‹_› ‹_› ‹_›
      cases h
      exact ⟨rfl, rfl⟩
    all_goals
      cases h
      exact ⟨rfl, rfl⟩
  case h_3 => split at h <;> cases h <;> exact ⟨rfl, rfl⟩
  case h_4 => cases h

/-- OP-32. -/
theorem decodeOp32_encodesTo : EncodesTo (decodeOp32 f7 rs2 rs1 f3 rd) (encR f7 rs2 rs1 f3 rd 0b0111011#7) := by
  intro i h
  unfold decodeOp32 at h
  (repeat' split at h) <;> cases h <;> exact ⟨rfl, rfl⟩

/-- BRANCH. -/
theorem decodeBranch_encodesTo : EncodesTo (decodeBranch f7 rs2 rs1 f3 rd) (encR f7 rs2 rs1 f3 rd 0b1100011#7) := by
  intro i h
  unfold decodeBranch at h
  split at h <;> cases h <;> exact ⟨immSB_even f7 rd, encSB_immSB⟩

/-- JALR. -/
theorem decodeJalr_encodesTo : EncodesTo (decodeJalr (immI f7 rs2) rs1 f3 rd) (encR f7 rs2 rs1 f3 rd 0b1100111#7) := by
  intro i h
  unfold decodeJalr at h
  split at h <;> cases h
  exact ⟨rfl, encI_immI⟩

/-- SYSTEM; all 32 bits of `ecall` and `ebreak` are fixed (R101). -/
theorem decodeSystem_encodesTo :
    EncodesTo (decodeSystem (immI f7 rs2) rs1 f3 rd) (encR f7 rs2 rs1 f3 rd 0b1110011#7) := by
  intro i h
  unfold decodeSystem at h
  split at h
  case h_1 =>
    split at h
    next zero =>
      obtain ⟨rfl, rfl⟩ := zero
      split at h <;> cases h
      all_goals exact ⟨rfl, (congrArg (encI · 0#5 0b000#3 0#5 0b1110011#7) ‹immI f7 rs2 = _›).symm.trans encI_immI⟩
    next => cases h
  case h_8 =>
    obtain rfl := funct3_last _ ‹_› ‹_› ‹_› ‹_› ‹_› ‹_› ‹_›
    cases h
    exact ⟨rfl, encI_immI⟩
  all_goals cases h
  all_goals exact ⟨rfl, encI_immI⟩

/-- AMO on words; the rs2 field of `lr.w` is 00000 (R94). -/
theorem decodeAmoW_encodesTo : EncodesTo (decodeAmoW f7 rs2 rs1 rd) (encR f7 rs2 rs1 0b010#3 rd 0b0101111#7) := by
  intro i h
  unfold decodeAmoW at h
  split at h
  case h_3 =>
    split_ifs at h with lr
    cases h
    exact ⟨rfl, lr ▸ encAmo_funct5 ‹_›⟩
  all_goals cases h
  all_goals exact ⟨rfl, encAmo_funct5 ‹_›⟩

/-- AMO on doublewords; the rs2 field of `lr.d` is 00000 (R94). -/
theorem decodeAmoD_encodesTo : EncodesTo (decodeAmoD f7 rs2 rs1 rd) (encR f7 rs2 rs1 0b011#3 rd 0b0101111#7) := by
  intro i h
  unfold decodeAmoD at h
  split at h
  case h_3 =>
    split_ifs at h with lr
    cases h
    exact ⟨rfl, lr ▸ encAmo_funct5 ‹_›⟩
  all_goals cases h
  all_goals exact ⟨rfl, encAmo_funct5 ‹_›⟩

/-- AMO. -/
theorem decodeAmo_encodesTo : EncodesTo (decodeAmo f7 rs2 rs1 f3 rd) (encR f7 rs2 rs1 f3 rd 0b0101111#7) := by
  intro i h
  unfold decodeAmo at h
  split at h
  · exact decodeAmoW_encodesTo i h
  · exact decodeAmoD_encodesTo i h
  · cases h

/-- `fmadd`. -/
theorem decodeFmadd_encodesTo : EncodesTo (decodeFmadd f7 rs2 rs1 f3 rd) (encR f7 rs2 rs1 f3 rd 0b1000011#7) := by
  intro i h
  unfold decodeFmadd at h
  split at h <;> cases h <;> exact ⟨rfl, encR4_rs3 ‹_›⟩

/-- `fmsub`. -/
theorem decodeFmsub_encodesTo : EncodesTo (decodeFmsub f7 rs2 rs1 f3 rd) (encR f7 rs2 rs1 f3 rd 0b1000111#7) := by
  intro i h
  unfold decodeFmsub at h
  split at h <;> cases h <;> exact ⟨rfl, encR4_rs3 ‹_›⟩

/-- `fnmsub`. -/
theorem decodeFnmsub_encodesTo : EncodesTo (decodeFnmsub f7 rs2 rs1 f3 rd) (encR f7 rs2 rs1 f3 rd 0b1001011#7) := by
  intro i h
  unfold decodeFnmsub at h
  split at h <;> cases h <;> exact ⟨rfl, encR4_rs3 ‹_›⟩

/-- `fnmadd`. -/
theorem decodeFnmadd_encodesTo : EncodesTo (decodeFnmadd f7 rs2 rs1 f3 rd) (encR f7 rs2 rs1 f3 rd 0b1001111#7) := by
  intro i h
  unfold decodeFnmadd at h
  split at h <;> cases h <;> exact ⟨rfl, encR4_rs3 ‹_›⟩

/-- OP-FP: whatever selects the instruction, its operands are whole fields. -/
theorem decodeOpFp_encodesTo : EncodesTo (decodeOpFp f7 rs2 rs1 f3 rd) (encR f7 rs2 rs1 f3 rd 0b1010011#7) := by
  intro i h
  unfold decodeOpFp at h
  (repeat' split at h) <;> cases h <;> exact ⟨rfl, rfl⟩

/-- The opcode map. -/
theorem decodeFields_encodesTo {op : BitVec 7} :
    EncodesTo (decodeFields f7 rs2 rs1 f3 rd op) (encR f7 rs2 rs1 f3 rd op) := by
  unfold decodeFields
  split
  · exact decodeLoad_encodesTo
  · exact decodeLoadFp_encodesTo
  · exact decodeMiscMem_encodesTo
  · exact decodeOpImm_encodesTo
  · exact encodesTo_ok rfl encU_immU
  · exact decodeOpImm32_encodesTo
  · exact decodeStore_encodesTo
  · exact decodeStoreFp_encodesTo
  · exact decodeAmo_encodesTo
  · exact decodeOp_encodesTo
  · exact encodesTo_ok rfl encU_immU
  · exact decodeOp32_encodesTo
  · exact decodeFmadd_encodesTo
  · exact decodeFmsub_encodesTo
  · exact decodeFnmsub_encodesTo
  · exact decodeFnmadd_encodesTo
  · exact decodeOpFp_encodesTo
  · exact decodeBranch_encodesTo
  · exact decodeJalr_encodesTo
  · exact encodesTo_ok (immUJ_even _) ((congrArg (encU · rd _) (fieldUJ_immUJ _)).trans encU_immU)
  · exact decodeSystem_encodesTo
  · intro i h
    cases h

end Groups

/-- Settles O3: a word is made of its fields, and every group of the opcode map answers an instruction made of the same. -/
theorem encodeInvertsDecode : Obligations.EncodeInvertsDecode := by
  intro w i h
  have fields := decodeFields_encodesTo i h
  rwa [encR_fields] at fields

end Sys2Proof
end

section
/-! `Laws/PerInstr` for every instruction at once. -/

namespace Sys2Proof.Laws

/-- The word of an instruction matches the row of the instruction. -/
theorem encodesToRow (i : Instr) : EncodesToRow.Statement i := by
  cases i <;> simp only [
    EncodesToRow.add, EncodesToRow.addw, EncodesToRow.addi, EncodesToRow.addiw, EncodesToRow.and, EncodesToRow.andi,
    EncodesToRow.auipc, EncodesToRow.lui, EncodesToRow.or, EncodesToRow.ori, EncodesToRow.sll, EncodesToRow.sllw,
    EncodesToRow.slli, EncodesToRow.slliw, EncodesToRow.slt, EncodesToRow.slti, EncodesToRow.sltiu, EncodesToRow.sltu,
    EncodesToRow.sra, EncodesToRow.sraw, EncodesToRow.srai, EncodesToRow.sraiw, EncodesToRow.srl, EncodesToRow.srlw,
    EncodesToRow.srli, EncodesToRow.srliw, EncodesToRow.sub, EncodesToRow.subw, EncodesToRow.xor, EncodesToRow.xori,
    EncodesToRow.beq, EncodesToRow.bne, EncodesToRow.blt, EncodesToRow.bge, EncodesToRow.bltu, EncodesToRow.bgeu,
    EncodesToRow.jal, EncodesToRow.jalr, EncodesToRow.lb, EncodesToRow.lbu, EncodesToRow.lh, EncodesToRow.lhu,
    EncodesToRow.lw, EncodesToRow.lwu, EncodesToRow.ld, EncodesToRow.sb, EncodesToRow.sh, EncodesToRow.sw,
    EncodesToRow.sd, EncodesToRow.csrrw, EncodesToRow.csrrs, EncodesToRow.csrrc, EncodesToRow.csrrwi,
    EncodesToRow.csrrsi, EncodesToRow.csrrci, EncodesToRow.ecall, EncodesToRow.ebreak, EncodesToRow.fence,
    EncodesToRow.fenceI, EncodesToRow.mul, EncodesToRow.mulw, EncodesToRow.mulh, EncodesToRow.mulhu, EncodesToRow.mulhsu,
    EncodesToRow.div, EncodesToRow.divw, EncodesToRow.divu, EncodesToRow.divuw, EncodesToRow.rem, EncodesToRow.remw,
    EncodesToRow.remu, EncodesToRow.remuw, EncodesToRow.flw, EncodesToRow.fld, EncodesToRow.fsw, EncodesToRow.fsd,
    EncodesToRow.fsgnjS, EncodesToRow.fsgnjD, EncodesToRow.fsgnjnS, EncodesToRow.fsgnjnD, EncodesToRow.fsgnjxS,
    EncodesToRow.fsgnjxD, EncodesToRow.fminS, EncodesToRow.fminD, EncodesToRow.fmaxS, EncodesToRow.fmaxD,
    EncodesToRow.feqS, EncodesToRow.feqD, EncodesToRow.fltS, EncodesToRow.fltD, EncodesToRow.fleS, EncodesToRow.fleD,
    EncodesToRow.fclassS, EncodesToRow.fclassD, EncodesToRow.fmvSX, EncodesToRow.fmvDX, EncodesToRow.fmvXS,
    EncodesToRow.fmvXD, EncodesToRow.faddS, EncodesToRow.faddD, EncodesToRow.fsubS, EncodesToRow.fsubD,
    EncodesToRow.fmulS, EncodesToRow.fmulD, EncodesToRow.fdivS, EncodesToRow.fdivD, EncodesToRow.fsqrtS,
    EncodesToRow.fsqrtD, EncodesToRow.fmaddS, EncodesToRow.fmaddD, EncodesToRow.fmsubS, EncodesToRow.fmsubD,
    EncodesToRow.fnmaddS, EncodesToRow.fnmaddD, EncodesToRow.fnmsubS, EncodesToRow.fnmsubD, EncodesToRow.fcvtSD,
    EncodesToRow.fcvtDS, EncodesToRow.fcvtSW, EncodesToRow.fcvtDW, EncodesToRow.fcvtSL, EncodesToRow.fcvtDL,
    EncodesToRow.fcvtSWu, EncodesToRow.fcvtDWu, EncodesToRow.fcvtSLu, EncodesToRow.fcvtDLu, EncodesToRow.fcvtWS,
    EncodesToRow.fcvtWD, EncodesToRow.fcvtLS, EncodesToRow.fcvtLD, EncodesToRow.fcvtWuS, EncodesToRow.fcvtWuD,
    EncodesToRow.fcvtLuS, EncodesToRow.fcvtLuD, EncodesToRow.amoaddW, EncodesToRow.amoaddD, EncodesToRow.amoandW,
    EncodesToRow.amoandD, EncodesToRow.amomaxW, EncodesToRow.amomaxD, EncodesToRow.amomaxuW, EncodesToRow.amomaxuD,
    EncodesToRow.amominW, EncodesToRow.amominD, EncodesToRow.amominuW, EncodesToRow.amominuD, EncodesToRow.amoorW,
    EncodesToRow.amoorD, EncodesToRow.amoswapW, EncodesToRow.amoswapD, EncodesToRow.amoxorW, EncodesToRow.amoxorD,
    EncodesToRow.lrW, EncodesToRow.lrD, EncodesToRow.scW, EncodesToRow.scD]

end Sys2Proof.Laws
end

section
/-! The decoder and the opcode table (30_encoding.md R99). A word that matches the row of an instruction decodes to an
instruction of that row; since the decoder gives one answer, no word matches two rows. The other direction is the encoder's: the
word of an instruction matches its row. -/

namespace Sys2Proof

-- ==== The row of an instruction ====

/-- Every constructor has a place in the table. -/
theorem Instr.ctorIdx_lt (i : Instr) : i.ctorIdx < opcodeTable.length := by
  rw [show opcodeTable.length = 156 from rfl]
  cases i <;> simp only [Instr.ctorIdx] <;> decide

/-- The row of an instruction is one of the table. -/
theorem Instr.row_mem (i : Instr) : i.row ∈ opcodeTable := by
  rw [Instr.row, List.getD_eq_getElem _ _ i.ctorIdx_lt]
  exact List.getElem_mem _

/-- The row of what a word decodes to. -/
def rowOf (d : Decoded) : Except Reject Row := d.map Instr.row

theorem rowOf_eq_ok {d : Decoded} {r : Row} : rowOf d = .ok r ↔ ∃ i, d = .ok i ∧ i.row = r := by
  cases d <;> simp [rowOf, Except.map]

/-- Every row of the table has an instruction: its pattern decodes to one. -/
theorem exists_instr_of_row : ∀ r ∈ opcodeTable, ∃ i : Instr, i.row = r := by
  have patterns : ∀ r ∈ opcodeTable, rowOf (decode r.pattern) = .ok r := by decide +kernel
  intro r mem
  obtain ⟨i, _, row⟩ := rowOf_eq_ok.mp (patterns r mem)
  exact ⟨i, row⟩

-- ==== A word that matches a row ====

/-- A field of a word that matches a row, where the row's mask keeps the field whole or not at all: the value the row asks
for, or any. -/
def maskedField {n : Nat} (m p v : BitVec n) : BitVec n := if m = BitVec.allOnes n then p else v

theorem maskedField_eq {n : Nat} {m p v : BitVec n} (h : v &&& m = p) : maskedField m p v = v := by
  unfold maskedField
  split_ifs with whole
  · rw [← h, whole, BitVec.and_allOnes]
  · rfl

/-- A piece that the mask keeps whole is the piece of the pattern. -/
theorem piece_of_masked {n start len : Nat} {m p v : BitVec n} (h : v &&& m = p)
    (whole : m.extractLsb' start len = BitVec.allOnes len) : v.extractLsb' start len = p.extractLsb' start len := by
  rw [← h, BitVec.extractLsb'_and, whole, BitVec.and_allOnes]

/-- A word that matches a row decodes to an instruction of the row, if the opcode map answers one for all fields that the row's
mask leaves open. The mask may keep a part of funct7, so the map is also told what the row asks of funct7. -/
theorem Row.Matches.decodes {r : Row} {w : Word} (h : r.Matches w)
    (answers : ∀ (f7 : BitVec 7) (rs2 rs1 : Reg) (f3 : BitVec 3) (rd : Reg) (op : BitVec 7),
      f7 &&& funct7Of r.mask = funct7Of r.pattern →
      rowOf (decodeFields (maskedField (funct7Of r.mask) (funct7Of r.pattern) f7)
        (maskedField (rs2Of r.mask) (rs2Of r.pattern) rs2) (maskedField (rs1Of r.mask) (rs1Of r.pattern) rs1)
        (maskedField (funct3Of r.mask) (funct3Of r.pattern) f3) (maskedField (rdOf r.mask) (rdOf r.pattern) rd)
        (maskedField (opcodeOf r.mask) (opcodeOf r.pattern) op)) = .ok r) :
    rowOf (decode w) = .ok r := by
  have piece (start len : Nat) :
      w.extractLsb' start len &&& r.mask.extractLsb' start len = r.pattern.extractLsb' start len := by
    rw [← BitVec.extractLsb'_and, h]
  have answer := answers (funct7Of w) (rs2Of w) (rs1Of w) (funct3Of w) (rdOf w) (opcodeOf w) (piece 25 7)
  unfold funct7Of rs2Of rs1Of funct3Of rdOf opcodeOf at answer
  rwa [maskedField_eq (piece 25 7), maskedField_eq (piece 20 5), maskedField_eq (piece 15 5), maskedField_eq (piece 12 3),
    maskedField_eq (piece 7 5), maskedField_eq (piece 0 7)] at answer

/-- A word that matches the row of an instruction decodes to an instruction of that row. -/
theorem decode_of_matches_row (i : Instr) {w : Word} (h : i.row.Matches w) : rowOf (decode w) = .ok i.row := by
  cases i with
  | add | addw | and | or | sll | sllw | slliw | slt | sltu | sra | sraw | sraiw | srl | srlw | srliw | sub | subw | xor
  | mul | mulw | mulh | mulhu | mulhsu | div | divw | divu | divuw | rem | remw | remu | remuw
  | addi | addiw | andi | ori | slti | sltiu | xori | auipc | lui
  | beq | bne | blt | bge | bltu | bgeu | jal | jalr
  | lb | lbu | lh | lhu | lw | lwu | ld | sb | sh | sw | sd | flw | fld | fsw | fsd
  | csrrw | csrrs | csrrc | csrrwi | csrrsi | csrrci | fence | fenceI
  | fsgnjS | fsgnjD | fsgnjnS | fsgnjnD | fsgnjxS | fsgnjxD | fminS | fminD | fmaxS | fmaxD
  | feqS | feqD | fltS | fltD | fleS | fleD | fclassS | fclassD | fmvSX | fmvDX | fmvXS | fmvXD
  | faddS | faddD | fsubS | fsubD | fmulS | fmulD | fdivS | fdivD | fsqrtS | fsqrtD | fcvtSD | fcvtDS
  | fcvtSW | fcvtDW | fcvtSL | fcvtDL | fcvtSWu | fcvtDWu | fcvtSLu | fcvtDLu
  | fcvtWS | fcvtWD | fcvtLS | fcvtLD | fcvtWuS | fcvtWuD | fcvtLuS | fcvtLuD =>
    dsimp only [Instr.row, Instr.ctorIdx] at h ⊢
    exact h.decodes fun _ _ _ _ _ _ _ => rfl
  | ecall | ebreak =>
    have word := (BitVec.and_allOnes (x := w)).symm.trans h
    rw [word]
    rfl
  | slli =>
    dsimp only [Instr.row, Instr.ctorIdx] at h ⊢
    refine h.decodes fun f7 rs2 rs1 _ rd _ masked => ?_
    show rowOf (decodeOpImm f7 rs2 rs1 0b001#3 rd) = _
    rw [decodeOpImm, piece_of_masked (start := 1) (len := 6) masked rfl]
    rfl
  | srli | srai =>
    dsimp only [Instr.row, Instr.ctorIdx] at h ⊢
    refine h.decodes fun f7 rs2 rs1 _ rd _ masked => ?_
    show rowOf (decodeOpImm f7 rs2 rs1 0b101#3 rd) = _
    rw [decodeOpImm, piece_of_masked (start := 1) (len := 6) masked rfl]
    rfl
  | amoaddW | amoandW | amomaxW | amomaxuW | amominW | amominuW | amoorW | amoswapW | amoxorW | lrW | scW =>
    dsimp only [Instr.row, Instr.ctorIdx] at h ⊢
    refine h.decodes fun f7 rs2 rs1 _ rd _ masked => ?_
    show rowOf (decodeAmoW f7 _ rs1 rd) = _
    rw [decodeAmoW, piece_of_masked (start := 2) (len := 5) masked rfl]
    rfl
  | amoaddD | amoandD | amomaxD | amomaxuD | amominD | amominuD | amoorD | amoswapD | amoxorD | lrD | scD =>
    dsimp only [Instr.row, Instr.ctorIdx] at h ⊢
    refine h.decodes fun f7 rs2 rs1 _ rd _ masked => ?_
    show rowOf (decodeAmoD f7 _ rs1 rd) = _
    rw [decodeAmoD, piece_of_masked (start := 2) (len := 5) masked rfl]
    rfl
  | fmaddS | fmaddD =>
    dsimp only [Instr.row, Instr.ctorIdx] at h ⊢
    refine h.decodes fun f7 rs2 rs1 f3 rd _ masked => ?_
    show rowOf (decodeFmadd f7 rs2 rs1 f3 rd) = _
    rw [decodeFmadd, piece_of_masked (start := 0) (len := 2) masked rfl]
    rfl
  | fmsubS | fmsubD =>
    dsimp only [Instr.row, Instr.ctorIdx] at h ⊢
    refine h.decodes fun f7 rs2 rs1 f3 rd _ masked => ?_
    show rowOf (decodeFmsub f7 rs2 rs1 f3 rd) = _
    rw [decodeFmsub, piece_of_masked (start := 0) (len := 2) masked rfl]
    rfl
  | fnmaddS | fnmaddD =>
    dsimp only [Instr.row, Instr.ctorIdx] at h ⊢
    refine h.decodes fun f7 rs2 rs1 f3 rd _ masked => ?_
    show rowOf (decodeFnmadd f7 rs2 rs1 f3 rd) = _
    rw [decodeFnmadd, piece_of_masked (start := 0) (len := 2) masked rfl]
    rfl
  | fnmsubS | fnmsubD =>
    dsimp only [Instr.row, Instr.ctorIdx] at h ⊢
    refine h.decodes fun f7 rs2 rs1 f3 rd _ masked => ?_
    show rowOf (decodeFnmsub f7 rs2 rs1 f3 rd) = _
    rw [decodeFnmsub, piece_of_masked (start := 0) (len := 2) masked rfl]
    rfl

/-- A word that matches a row of the table decodes to an instruction of that row. -/
theorem decode_of_matches {r : Row} (mem : r ∈ opcodeTable) {w : Word} (h : r.Matches w) : rowOf (decode w) = .ok r := by
  obtain ⟨i, rfl⟩ := exists_instr_of_row r mem
  exact decode_of_matches_row i h

/-- A word that decodes matches the row of its instruction: it is the word of that instruction. -/
theorem matches_of_decode {w : Word} {i : Instr} (h : decode w = .ok i) : i.row.Matches w := by
  obtain ⟨_, rfl⟩ := encodeInvertsDecode w i h
  exact Laws.encodesToRow i

/-- Settles O4: a word that matches a row decodes to that row, a word that decodes is the encoding of its instruction, and the
decoder gives a word one row. -/
theorem decodeFollowsOpcodeTable : Obligations.DecodeFollowsOpcodeTable := by
  refine ⟨fun w => ⟨?_, ?_⟩, fun w i h => ⟨i.row_mem, matches_of_decode h⟩, ?_⟩
  · rintro ⟨i, h⟩
    exact ⟨i.row, i.row_mem, matches_of_decode h⟩
  · rintro ⟨r, mem, h⟩
    obtain ⟨i, decoded, _⟩ := rowOf_eq_ok.mp (decode_of_matches mem h)
    exact ⟨i, decoded⟩
  · intro r mem r' mem' w h h'
    exact Except.ok.inj ((decode_of_matches mem h).symm.trans (decode_of_matches mem' h'))

/-- Settles O1: each word is the encoding of its instruction, which is well formed. -/
theorem decodesSpecExampleWords : Obligations.DecodesSpecExampleWords :=
  ⟨decodeInvertsEncode (.add 5 6 7) rfl, decodeInvertsEncode (.addi 5 6 0xFF9#12) rfl,
    decodeInvertsEncode (.slli 5 6 63) rfl, decodeInvertsEncode (.auipc 5 0x12345#20) rfl,
    decodeInvertsEncode (.bne 6 7 0x1FF8#13) rfl, decodeInvertsEncode (.jal 0 0x1FFFF0#21) rfl,
    decodeInvertsEncode (.sb 6 7 3) rfl, decodeInvertsEncode (.csrrw 5 6 3) rfl, decodeInvertsEncode (.mulhsu 5 6 7) rfl,
    decodeInvertsEncode (.fmaddS 1 2 3 4 7) rfl, decodeInvertsEncode (.fcvtDL 1 6 3) rfl,
    decodeInvertsEncode (.scW 5 6 7 true true) rfl⟩

end Sys2Proof
end

section
/-! Integer computation (R120 to R154): the operands and the operations on words read as integers, from which the sums, the
comparisons and the shifts of every instruction follow. -/

namespace Sys2Proof.Machine

-- ==== Operands as integers ====

/-- Sign extension takes the integer over, modulo the power of two of the new width. -/
theorem signExtend_eq_ofInt {v : Nat} (x : BitVec v) (w : Nat) : x.signExtend w = BitVec.ofInt w x.toInt := rfl

/-- A sign-extended immediate is the integer of its field (R84). -/
theorem sextImm_eq_ofInt (imm : BitVec 12) : sextImm imm = BitVec.ofInt 64 imm.toInt := signExtend_eq_ofInt imm 64

/-- Sign extension keeps the integer (R84). -/
theorem sextImm_toInt (imm : BitVec 12) : (sextImm imm).toInt = imm.toInt := BitVec.toInt_signExtend_of_le (by decide)

/-- The U-immediate is its field times 2^12 (R88). -/
theorem upperImm_eq_ofInt (u : BitVec 20) : upperImm u = BitVec.ofInt 64 (u.toInt * 2 ^ 12) := by
  rw [upperImm, signExtend_eq_ofInt, BitVec.toInt_append_zero, Int.mul_comm]

/-- A Word operand is the register's integer modulo 2^32 (R121). -/
theorem State.readXW_eq_ofInt (s : State) (r : Reg) : s.readXW r = BitVec.ofInt 32 (s.readX r).toInt :=
  (BitVec.signExtend_eq_setWidth_of_le _ (by decide)).symm

/-- A Word operand is bits 31:0 of the register (R121). -/
theorem State.readXW_eq_extractLsb' (s : State) (r : Reg) : s.readXW r = (s.readX r).extractLsb' 0 32 :=
  BitVec.setWidth_eq_extractLsb' (by decide)

-- ==== Operations as arithmetic ====

/-- Subtraction of words is that of integers, modulo the power of two. -/
theorem ofInt_sub {w : Nat} (m n : Int) : BitVec.ofInt w (m - n) = BitVec.ofInt w m - BitVec.ofInt w n := by
  rw [Int.sub_eq_add_neg, BitVec.ofInt_add, BitVec.ofInt_neg, BitVec.sub_eq_add_neg]

/-- A shift to the left is a multiplication. -/
theorem shiftLeft_eq_ofNat {w : Nat} (x : BitVec w) (n : Nat) : x <<< n = BitVec.ofNat w (x.toNat * 2 ^ n) := by
  apply BitVec.eq_of_toNat_eq
  rw [BitVec.toNat_shiftLeft, BitVec.toNat_ofNat, Nat.shiftLeft_eq]

/-- A logical shift to the right is the division of the unsigned value. -/
theorem ushiftRight_eq_ofNat {w : Nat} (x : BitVec w) (n : Nat) : x >>> n = BitVec.ofNat w (x.toNat / 2 ^ n) := by
  apply BitVec.eq_of_toNat_eq
  have fits : x.toNat / 2 ^ n < 2 ^ w := (Nat.div_le_self _ _).trans_lt x.isLt
  rw [BitVec.toNat_ushiftRight, BitVec.toNat_ofNat, Nat.mod_eq_of_lt fits, Nat.shiftRight_eq_div_pow]

/-- An arithmetic shift to the right is the division of the two's complement value, rounded down. -/
theorem sshiftRight_eq_ofInt {w : Nat} (x : BitVec w) (n : Nat) : x.sshiftRight n = BitVec.ofInt w (x.toInt / 2 ^ n) := by
  rw [BitVec.sshiftRight_eq, Int.shiftRight_eq_div_pow, Int.natCast_pow, Int.cast_ofNat_Int]

/-- The result of a two's complement comparison (R154). -/
theorem ofBit_slt (a b : Dword) : ofBit (a.slt b) = if a.toInt < b.toInt then 1 else 0 := by
  simp only [ofBit, BitVec.slt_iff_toInt_lt]

/-- The result of an unsigned comparison (R154). -/
theorem ofBit_ult (a b : Dword) : ofBit (a.ult b) = if a.toNat < b.toNat then 1 else 0 := by
  simp only [ofBit, BitVec.ult_iff_toNat_lt]

-- ==== The instructions ====

/-- Settles O18: every one of the eight writes its result back, and the result is the sum of the operands' integers. -/
theorem addAndSubtract : Obligations.AddAndSubtract := by
  intro s rd rs1 rs2 imm u
  refine ⟨completesX_of_writeBack rfl ?add, completesX_of_writeBack rfl ?sub, completesX_of_writeBack rfl ?addi,
    completesX_of_writeBack rfl ?addw, completesX_of_writeBack rfl ?subw, completesX_of_writeBack rfl ?addiw,
    completesX_of_writeBack rfl (upperImm_eq_ofInt u), completesX_of_writeBack rfl ?auipc⟩
  case add => rw [BitVec.ofInt_add, BitVec.ofInt_toInt, BitVec.ofInt_toInt]
  case sub => rw [ofInt_sub, BitVec.ofInt_toInt, BitVec.ofInt_toInt]
  case addi => rw [BitVec.ofInt_add, BitVec.ofInt_toInt, sextImm_eq_ofInt]
  case addw => rw [sextWord, s.readXW_eq_ofInt, s.readXW_eq_ofInt, BitVec.ofInt_add]
  case subw => rw [sextWord, s.readXW_eq_ofInt, s.readXW_eq_ofInt, ofInt_sub]
  case addiw => rw [sextWord, s.readXW_eq_ofInt, signExtend_eq_ofInt imm, BitVec.ofInt_add]
  case auipc => rw [BitVec.ofInt_add, BitVec.ofInt_toInt, upperImm_eq_ofInt]

/-- Settles O19: the logical operations are written back as they stand; a comparison writes the bit of its condition. -/
theorem logicAndComparison : Obligations.LogicAndComparison := by
  intro s rd rs1 rs2 imm
  refine ⟨completesX_of_writeBack rfl rfl, completesX_of_writeBack rfl rfl, completesX_of_writeBack rfl rfl,
    completesX_of_writeBack rfl rfl, completesX_of_writeBack rfl rfl, completesX_of_writeBack rfl rfl,
    completesX_of_writeBack rfl ?slt, completesX_of_writeBack rfl ?slti, completesX_of_writeBack rfl ?sltu,
    completesX_of_writeBack rfl ?sltiu⟩
  case slt => exact ofBit_slt _ _
  case slti => rw [ofBit_slt, sextImm_toInt]
  case sltu | sltiu => exact ofBit_ult _ _

/-- Settles O20: the three shifts are the multiplication and the two divisions at either width, whatever the amount; a Word
form applies them to bits 31:0. -/
theorem shifts : Obligations.Shifts := by
  intro s rd rs1 rs2 sh shw
  have low := s.readXW_eq_extractLsb' rs1
  refine ⟨completesX_of_writeBack rfl ?sll, completesX_of_writeBack rfl ?slli, completesX_of_writeBack rfl ?srl,
    completesX_of_writeBack rfl ?srli, completesX_of_writeBack rfl ?sra, completesX_of_writeBack rfl ?srai,
    completesX_of_writeBack rfl ?sllw, completesX_of_writeBack rfl ?slliw, completesX_of_writeBack rfl ?srlw,
    completesX_of_writeBack rfl ?srliw, completesX_of_writeBack rfl ?sraw, completesX_of_writeBack rfl ?sraiw⟩
  case sll | slli => exact shiftLeft_eq_ofNat _ _
  case srl | srli => exact ushiftRight_eq_ofNat _ _
  case sra | srai => exact sshiftRight_eq_ofInt _ _
  case sllw | slliw => exact congrArg sextWord (low ▸ shiftLeft_eq_ofNat _ _)
  case srlw | srliw => exact congrArg sextWord (low ▸ ushiftRight_eq_ofNat _ _)
  case sraw | sraiw => exact congrArg sextWord (low ▸ sshiftRight_eq_ofInt _ _)

end Sys2Proof.Machine
end

section
/-! Control transfer (R160 to R168): the targets read as integers and when they are aligned, how a branch and a jump end, and
the eight instructions as instances of the two. -/

namespace Sys2Proof.Machine

-- ==== Targets as integers ====

/-- A sign-extended offset is added as an integer, modulo 2^64 (R26, R84). -/
theorem add_signExtend_eq_ofInt {w : Nat} (x : Dword) (off : BitVec w) :
    x + off.signExtend 64 = BitVec.ofInt 64 (x.toNat + off.toInt) := by
  rw [signExtend_eq_ofInt, BitVec.ofInt_add, BitVec.ofInt_natCast, BitVec.ofNat_toNat, BitVec.setWidth_eq]

/-- The address of a `jalr` is the sum of the integers of its register and its immediate (R168). -/
theorem State.effAddr_eq_ofInt (s : State) (rs1 : Reg) (imm : BitVec 12) :
    s.effAddr rs1 imm = BitVec.ofInt 64 ((s.readX rs1).toInt + imm.toInt) := by
  rw [State.effAddr, sextImm_eq_ofInt, BitVec.ofInt_add, BitVec.ofInt_toInt]

/-- Clearing bit 0 rounds the unsigned value down to an even one (R168). -/
theorem clearBitZero_eq_ofNat (v : Dword) : v &&& ~~~1#64 = BitVec.ofNat 64 (v.toNat / 2 * 2) := by
  have shifts : v &&& ~~~1#64 = (v >>> 1) <<< 1 := by
    ext i bound
    cases i with
    | zero => simp
    | succ i => simp [-BitVec.reduceNot, BitVec.getElem_one, bound, Nat.add_comm]
  rw [shifts, shiftLeft_eq_ofNat, BitVec.toNat_ushiftRight, Nat.shiftRight_eq_div_pow, Nat.pow_one]

-- ==== Aligned targets ====

/-- Bit 1 of a word, read off its unsigned value. -/
theorem getLsbD_one_eq_decide {w : Nat} (v : BitVec w) : v.getLsbD 1 = decide (v.toNat / 2 % 2 = 1) := by
  rw [BitVec.getLsbD, Nat.testBit_eq_decide_div_mod_eq, Nat.pow_one]

/-- With bit 0 cleared, an address is a multiple of 4 exactly when its bit 1 is 0 (R160, R168). -/
theorem clearBitZero_aligned_iff (v : Dword) :
    (BitVec.ofNat 64 (v.toNat / 2 * 2)).toNat % 4 = 0 ↔ v.getLsbD 1 = false := by
  have bound := v.isLt
  rw [BitVec.toNat_ofNat, getLsbD_one_eq_decide, decide_eq_false_iff_not]
  omega

/-- The two low bits of a word give its integer modulo 4. -/
theorem toInt_emod_four {w : Nat} (x : BitVec w) (wide : 2 ≤ w) : x.toInt % 4 = (x.toNat % 4 : Nat) := by
  have four : (4 : Int) ∣ ((2 ^ w : Nat) : Int) := Int.natCast_dvd_natCast.mpr (pow_dvd_pow 2 wide)
  rw [← Int.emod_emod_of_dvd _ four, BitVec.toInt_eq_toNat_bmod, Int.bmod_emod, Int.emod_emod_of_dvd _ four,
    Int.natCast_emod, Int.cast_ofNat_Int]

/-- From an aligned `pc` an even offset leads to a multiple of 4 exactly when its bit 1 is 0 (R160). -/
theorem target_aligned_iff {w : Nat} {pc : Dword} {off : BitVec w} (wide : 2 ≤ w) (aligned : pc.toNat % 4 = 0)
    (even : off.getLsbD 0 = false) :
    (BitVec.ofInt 64 (pc.toNat + off.toInt)).toNat % 4 = 0 ↔ off.getLsbD 1 = false := by
  have low : off.toNat % 2 = 0 := by simpa [BitVec.getLsbD, Nat.testBit_zero] using even
  have offset := toInt_emod_four off wide
  rw [BitVec.toNat_ofInt, getLsbD_one_eq_decide, decide_eq_false_iff_not]
  omega

-- ==== How a transfer ends ====

/-- A transfer to a multiple of 4 goes there. -/
theorem State.jumpTo_aligned (s linked : State) {t : Dword} (aligned : t.toNat % 4 = 0) :
    s.jumpTo linked t = .next (linked.setPc t) := by
  rw [State.jumpTo_eq, if_pos aligned]

/-- An instruction that transfers to a misaligned target raises, whatever it would have linked (R160). -/
theorem traps_of_jumpTo {i : Instr} {s linked : State} {t : Dword} (h : exec i s = s.jumpTo linked t)
    (misaligned : t.toNat % 4 ≠ 0) : Traps i s (.instructionAddressMisaligned t) := by
  rw [Traps, h, State.jumpTo_eq, if_neg misaligned]
  rfl

/-- An instruction that links and transfers to a multiple of 4 goes there, and its link register reads `pc + 4` (R167, R168). -/
theorem links_of_jumpTo {i : Instr} {s : State} {rd : Reg} {t : Dword}
    (h : exec i s = s.jumpTo (s.writeX rd (s.pc + 4)) t) (aligned : t.toNat % 4 = 0) :
    ∃ s', exec i s = .next s' ∧ s'.pc = t ∧ s'.readX rd = written rd (BitVec.ofNat 64 (s.pc.toNat + 4)) ∧
      OnlyChanges { x := some rd } s s' := by
  have link : BitVec.ofNat 64 (s.pc.toNat + 4) = s.pc + 4 := by
    rw [BitVec.ofNat_add, BitVec.ofNat_toNat, BitVec.setWidth_eq]
    rfl
  rw [link]
  exact ⟨_, h.trans (s.jumpTo_aligned _ aligned), rfl, State.readX_writeX_self s rd _, (OnlyChanges.writeX s rd _).setPc t⟩

-- ==== Branches ====

/-- The six branches on two registers, each with its condition on the integers the registers hold (R161 to R166). -/
def State.branches (s : State) (rs1 rs2 : Reg) (off : BitVec 13) : List (Instr × Bool) :=
  let a := s.readX rs1
  let b := s.readX rs2
  [(.beq rs1 rs2 off, decide (a = b)), (.bne rs1 rs2 off, decide (a ≠ b)),
    (.blt rs1 rs2 off, decide (a.toInt < b.toInt)), (.bge rs1 rs2 off, decide (b.toInt ≤ a.toInt)),
    (.bltu rs1 rs2 off, decide (a.toNat < b.toNat)), (.bgeu rs1 rs2 off, decide (b.toNat ≤ a.toNat))]

/-- A two's complement comparison that fails is one of integers the other way round (R164). -/
theorem not_slt_eq_decide {w : Nat} (a b : BitVec w) : (!a.slt b) = decide (b.toInt ≤ a.toInt) := by
  rw [BitVec.slt_eq_decide, ← decide_not, decide_eq_decide, Int.not_lt]

/-- An unsigned comparison that fails is one of numbers the other way round (R166). -/
theorem not_ult_eq_decide {w : Nat} (a b : BitVec w) : (!a.ult b) = decide (b.toNat ≤ a.toNat) := by
  rw [BitVec.ult_eq_decide, ← decide_not, decide_eq_decide, Nat.not_lt]

section Forms

variable {s : State} {rs1 rs2 : Reg} {off : BitVec 13} {p : Instr × Bool}

/-- Each branch is the shared operation on its condition. -/
theorem State.exec_branches (h : p ∈ s.branches rs1 rs2 off) : exec p.1 s = s.branchIf p.2 off := by
  simp only [State.branches, List.mem_cons, List.not_mem_nil, or_false] at h
  obtain rfl | rfl | rfl | rfl | rfl | rfl := h
  case inl | inr.inl | inr.inr.inl | inr.inr.inr.inr.inl => rfl
  · exact congrArg (s.branchIf · off) (not_slt_eq_decide _ _)
  · exact congrArg (s.branchIf · off) (not_ult_eq_decide _ _)

/-- A branch is well formed where its offset is even (R87). -/
theorem State.branches_wellFormed_iff (h : p ∈ s.branches rs1 rs2 off) : p.1.WellFormed ↔ off.getLsbD 0 = false := by
  simp only [State.branches, List.mem_cons, List.not_mem_nil, or_false] at h
  obtain rfl | rfl | rfl | rfl | rfl | rfl := h <;> exact Iff.of_eq (Bool.not_eq_true' _)

/-- A branch whose condition is false goes to the next instruction. -/
theorem State.branches_untaken (h : p ∈ s.branches rs1 rs2 off) (untaken : p.2 = false) : exec p.1 s = .next s.advance := by
  rw [State.exec_branches h, untaken, State.branchIf_eq, if_neg Bool.false_ne_true]

/-- A branch whose condition is true transfers to `pc + offset`, and links nothing. -/
theorem State.branches_taken (h : p ∈ s.branches rs1 rs2 off) (taken : p.2 = true) :
    exec p.1 s = s.jumpTo s (BitVec.ofInt 64 (s.pc.toNat + off.toInt)) := by
  rw [State.exec_branches h, taken, State.branchIf_eq, if_pos rfl, add_signExtend_eq_ofInt]

end Forms

-- ==== Jumps ====

/-- A `jal` is well formed where its offset is even (R89). -/
theorem jal_wellFormed_iff (rd : Reg) (off : BitVec 21) : (Instr.jal rd off).WellFormed ↔ off.getLsbD 0 = false :=
  Iff.of_eq (Bool.not_eq_true' _)

/-- `jal` transfers to `pc + offset` and links (R167). -/
theorem exec_jal (s : State) (rd : Reg) (off : BitVec 21) :
    exec (.jal rd off) s = s.jumpTo (s.writeX rd (s.pc + 4)) (BitVec.ofInt 64 (s.pc.toNat + off.toInt)) := by
  rw [← add_signExtend_eq_ofInt]
  rfl

/-- `jalr` transfers to the sum of its register and its immediate, bit 0 cleared, and links (R168). -/
theorem exec_jalr (s : State) (rd rs1 : Reg) (imm : BitVec 12) :
    exec (.jalr rd rs1 imm) s = s.jumpTo (s.writeX rd (s.pc + 4))
      (BitVec.ofNat 64 ((BitVec.ofInt 64 ((s.readX rs1).toInt + imm.toInt)).toNat / 2 * 2)) := by
  rw [← clearBitZero_eq_ofNat, ← State.effAddr_eq_ofInt]
  rfl

-- ==== The statements ====

/-- Settles O21: every branch is the shared operation on its condition, which does one of three things. -/
theorem branchesGoWhereTheyShould : Obligations.BranchesGoWhereTheyShould := by
  intro s rs1 rs2 off a b t p (h : p ∈ s.branches rs1 rs2 off)
  refine ⟨fun untaken => ?_, fun taken aligned => ?_, fun taken misaligned => ?_⟩
  · exact ⟨_, State.branches_untaken h untaken, s.advance_pc_toNat, OnlyChanges.pcOnly _ s _, trivial⟩
  · exact (State.branches_taken h taken).trans (s.jumpTo_aligned s aligned)
  · exact traps_of_jumpTo (State.branches_taken h taken) misaligned

/-- Settles O22: both jumps are a transfer that links, and the target of `jalr` is a multiple of 4 where bit 1 of the sum is
0. -/
theorem jumpsGoAndLink : Obligations.JumpsGoAndLink := by
  intro s rd rs1 off imm link t v u
  have jal := exec_jal s rd off
  have jalr := exec_jalr s rd rs1 imm
  have jalr_aligned := clearBitZero_aligned_iff v
  refine ⟨links_of_jumpTo jal, traps_of_jumpTo jal, fun clear => ?_, fun set => ?_⟩
  · exact links_of_jumpTo jalr (jalr_aligned.mpr clear)
  · exact traps_of_jumpTo jalr fun aligned => Bool.eq_false_iff.mp (jalr_aligned.mp aligned) set

/-- Settles O23: from an aligned `pc` bit 1 of an even offset decides whether the target is a multiple of 4, and what the
branches and the jumps do in either case is O21 and O22. -/
theorem targetMisalignedExactlyWhenOffsetBitOne : Obligations.TargetMisalignedExactlyWhenOffsetBitOne := by
  intro s rd rs1 rs2 off joff imm pcAligned a b t j v u goes
  obtain ⟨jal_links, jal_traps, jalr_links, jalr_traps⟩ := jumpsGoAndLink s rd rs1 joff imm
  refine ⟨?branches, ?jal, ?jalr, jalr_traps⟩
  case branches =>
    intro p (h : p ∈ s.branches rs1 rs2 off) wf
    obtain ⟨-, goes_taken, traps_taken⟩ := branchesGoWhereTheyShould s rs1 rs2 off p h
    have even := (State.branches_wellFormed_iff h).mp wf
    have target := target_aligned_iff (by decide) pcAligned even
    refine ⟨State.branches_untaken h, fun taken clear => goes_taken taken (target.mpr clear), fun taken set => ?_⟩
    exact traps_taken taken fun aligned => Bool.eq_false_iff.mp (target.mp aligned) set
  case jal =>
    intro wf
    have target := target_aligned_iff (by decide) pcAligned ((jal_wellFormed_iff rd joff).mp wf)
    refine ⟨fun clear => ?_, fun set => jal_traps fun aligned => Bool.eq_false_iff.mp (target.mp aligned) set⟩
    exact (jal_links (target.mpr clear)).imp fun _ ⟨next, pc, _, changes⟩ => ⟨next, pc, changes⟩
  case jalr =>
    exact fun clear => (jalr_links clear).imp fun _ ⟨next, pc, _, changes⟩ => ⟨next, pc, changes⟩

end Sys2Proof.Machine
end

section
/-! The loads and the stores (42_load_store.md R175 to R186, R230 to R233), each an instance of the shared load or store at its
effective address. -/

namespace Sys2Proof.Machine

/-- The effective address is the sum of register and immediate modulo 2^64 (R50, R175). -/
theorem State.effAddr_toNat (s : State) (rs1 : Reg) (imm : BitVec 12) :
    (s.effAddr rs1 imm).toNat = (((s.readX rs1).toNat + imm.toInt) % 2 ^ 64).toNat := by
  rw [State.effAddr, sextImm, add_signExtend_eq_ofInt, BitVec.toNat_ofInt]
  rfl

/-- The bytes ready to load make a number that fits in them. -/
theorem LoadReady.leValue_lt {s : State} {a : Dword} {n : Nat} {bs : List Byte} (ready : LoadReady s a n bs) :
    leValue bs < 2 ^ (8 * n) :=
  ready.length ▸ Memory.readLE_lt _ (s.mem.readLE_eq_leValue bs a.toNat ready.holds)

/-- Zero extension keeps the number that the loaded bytes make. -/
theorem LoadReady.zextFrom_leValue {s : State} {a : Dword} {n : Nat} {bs : List Byte} (ready : LoadReady s a n bs)
    (narrow : 8 * n ≤ 64) : zextFrom (8 * n) (leValue bs) = BitVec.ofNat 64 (leValue bs) :=
  BitVec.setWidth_ofNat_of_le_of_lt narrow ready.leValue_lt

/-- Settles O24: the signed loads extend the value as the statement writes it, the unsigned ones keep it. -/
theorem loadsComplete : Obligations.LoadsComplete := by
  intro s rd rs1 imm bs a v
  refine ⟨s.effAddr_toNat rs1 imm, fun byte => ⟨?lb, ?lbu⟩, fun half => ⟨?lh, ?lhu⟩, fun word => ⟨?lw, ?lwu, ?flw⟩,
    fun dword => ⟨?ld, ?fld⟩⟩
  case lb => exact completesX_of_loadX (ext := sextFrom 8) rfl byte rfl
  case lbu => exact completesX_of_loadX (ext := zextFrom 8) rfl byte (byte.zextFrom_leValue (by decide))
  case lh => exact completesX_of_loadX (ext := sextFrom 16) rfl half rfl
  case lhu => exact completesX_of_loadX (ext := zextFrom 16) rfl half (half.zextFrom_leValue (by decide))
  case lw => exact completesX_of_loadX (ext := sextFrom 32) rfl word rfl
  case lwu => exact completesX_of_loadX (ext := zextFrom 32) rfl word (word.zextFrom_leValue (by decide))
  case flw => exact completesF_of_loadF (k := fun w => box (BitVec.ofNat 32 w)) rfl word rfl
  case ld => exact completesX_of_loadX (ext := zextFrom 64) rfl dword (zextFrom_64 v)
  case fld => exact completesF_of_loadF (k := BitVec.ofNat 64) rfl dword rfl

/-- Settles O25: each of the six is the shared store of its size, of an integer or a floating-point register. -/
theorem storesComplete : Obligations.StoresComplete := by
  intro s rs1 rs2 imm a
  refine ⟨?sb, ?sh, fun word => ⟨?sw, ?fsw⟩, fun dword => ⟨?sd, ?fsd⟩⟩
  case sb => exact completesStore_of_store rfl
  case sh => exact completesStore_of_store rfl
  case sw => exact completesStore_of_store rfl word
  case fsw => exact completesStore_of_store rfl word
  case sd => exact completesStore_of_store rfl dword
  case fsd => exact completesStore_of_store rfl dword

end Sys2Proof.Machine
end

section
/-! The accesses to `fflags`, `frm` and `fcsr` (R34, R35, R190 to R196): each is a window on the control word, and an access
replaces at most that window and writes what it held to `x[rd]`. -/

namespace Sys2Proof.Machine

-- ==== The control word as a number ====

/-- The flags are the lower five bits. -/
theorem State.fflags_toNat (s : State) : s.fflags.toNat = s.fcsr.toNat % 32 := by
  rw [State.fflags, BitVec.extractLsb'_toNat, Nat.shiftRight_zero]

/-- The rounding mode is the upper three bits. -/
theorem State.frm_toNat (s : State) : s.frm.toNat = s.fcsr.toNat / 32 := by
  have := s.fcsr.isLt
  rw [State.frm, BitVec.extractLsb'_toNat, Nat.shiftRight_eq_div_pow]
  omega

/-- A control word put together from a mode and flags. -/
theorem toNat_mode_append_flags (m : BitVec 3) (F : Flags) : (m ++ F : BitVec 8).toNat = m.toNat * 32 + F.toNat := by
  rw [BitVec.toNat_append, ← Nat.shiftLeft_add_eq_or_of_lt F.isLt, Nat.shiftLeft_eq]

-- ==== The three windows ====

/-- At the address `a` stands the CSR `c`, whose reads and writes are those of the window on the control word that R35 gives
the address. -/
structure WindowAt (a : BitVec 12) (c : Csr) : Prop where
  /-- The address selects `c`, with and without the counters. -/
  selected : ∀ hasCounters, csrAt hasCounters a = some c
  /-- It may be written. -/
  writable : c.readOnly = false
  /-- A read gives the window's value and changes nothing. -/
  read : ∀ s : State, s.readCsr c = (BitVec.ofNat 64 (csrValue a s.fcsr.toNat), s)
  /-- A write replaces the window. -/
  write : ∀ (s : State) (v : Dword), (s.writeCsr c v).fcsr.toNat = csrUpdate a s.fcsr.toNat v.toNat

theorem windowAt_fflags : WindowAt 0x001#12 .fflags where
  selected _ := rfl
  writable := rfl
  read s := by
    rw [State.readCsr, ← BitVec.ofNat_toNat, State.fflags_toNat]
    rfl
  write s v := by
    have joined := toNat_mode_append_flags s.frm (v.extractLsb' 0 5)
    rw [State.frm_toNat, BitVec.extractLsb'_toNat, Nat.shiftRight_zero] at joined
    exact joined

theorem windowAt_frm : WindowAt 0x002#12 .frm where
  selected _ := rfl
  writable := rfl
  read s := by
    rw [State.readCsr, ← BitVec.ofNat_toNat, State.frm_toNat]
    rfl
  write s v := by
    have joined := toNat_mode_append_flags (v.extractLsb' 0 3) s.fflags
    rw [State.fflags_toNat, BitVec.extractLsb'_toNat, Nat.shiftRight_zero] at joined
    exact joined

theorem windowAt_fcsr : WindowAt 0x003#12 .fcsr where
  selected _ := rfl
  writable := rfl
  read s := by
    rw [State.readCsr, ← BitVec.ofNat_toNat]
    rfl
  write s v := by
    have low := BitVec.extractLsb'_toNat 0 8 v
    rw [Nat.shiftRight_zero] at low
    exact low

/-- The three addresses of R33 select windows. -/
theorem exists_windowAt {a : BitVec 12} (h : a ∈ [0x001#12, 0x002#12, 0x003#12]) : ∃ c, WindowAt a c := by
  simp only [List.mem_cons, List.not_mem_nil, or_false] at h
  obtain rfl | rfl | rfl := h
  · exact ⟨_, windowAt_fflags⟩
  · exact ⟨_, windowAt_frm⟩
  · exact ⟨_, windowAt_fcsr⟩

-- ==== How an access ends ====

/-- A control word replaced, and an integer register written. -/
theorem OnlyChanges.fcsr_writeX (s : State) (F : BitVec 8) (rd : Reg) (v : Dword) :
    OnlyChanges { x := some rd, fcsr := true } s ({ s with fcsr := F }.writeX rd v) where
  xKept _ hr := State.readX_writeX_ne { s with fcsr := F } v hr
  fKept _ _ := rfl
  fcsrKept h := by cases h
  resvKept _ := rfl
  memKept _ _ := rfl
  fetchViewKept _ := rfl
  trapKept := rfl
  paramsKept := rfl
  drawsKept _ := rfl

section Access

variable {s : State} {i : Instr} {a : BitVec 12} {rd : Reg} {reads writes : Bool} {new : Dword → Dword}

/-- Steps 3 to 5 of R190 on a window: the access ends with the control word written where it writes, and the window's old
value in `x[rd]`. An access that does not read has the destination `x0`, which discards that value. -/
theorem WindowAt.csrAccess_eq {c : Csr} (window : WindowAt a c) (discards : reads = false → rd = 0#5) :
    let old := BitVec.ofNat 64 (csrValue a s.fcsr.toNat)
    s.csrAccess i a rd reads writes new =
      .next ((if writes then s.writeCsr c (new (if reads then old else 0)) else s).writeX rd old).advance := by
  rw [State.csrAccess_eq, window.selected]
  cases reads with
  | true => simp [window.writable, window.read]
  | false => simp [window.writable, discards rfl]

/-- An access to a window completes. -/
theorem csrCompletes_of_access (access : exec i s = s.csrAccess i a rd reads writes new)
    (h : a ∈ [0x001#12, 0x002#12, 0x003#12]) (discards : reads = false → rd = 0#5) {v : Dword}
    (hv : new (if reads then BitVec.ofNat 64 (csrValue a s.fcsr.toNat) else 0) = v) : CsrCompletes i s a rd writes v := by
  subst hv
  obtain ⟨c, window⟩ := exists_windowAt h
  rw [window.csrAccess_eq discards] at access
  cases writes with
  | true =>
    exact ⟨_, access, State.advance_pc_toNat _, (OnlyChanges.fcsr_writeX s _ rd _).setPc _,
      State.readX_writeX_self _ rd _, window.write s _⟩
  | false =>
    exact ⟨_, access, State.advance_pc_toNat _, (OnlyChanges.fcsr_writeX s s.fcsr rd _).setPc _,
      State.readX_writeX_self s rd _, rfl⟩

end Access

/-- Settles O30: each form is an access to a window; the two that may leave out the read do so only for `x0`, and what they
write does not depend on it. -/
theorem csrAccessCompletes : Obligations.CsrAccessCompletes := by
  intro s rd rs1 u a window old x c
  have discards : decide (rd ≠ 0#5) = false → rd = 0#5 := fun h => of_not_not (of_decide_eq_false h)
  refine ⟨?csrrw, ?csrrwi, ?csrrs, ?csrrsi, ?csrrc, ?csrrci⟩
  case csrrw => exact csrCompletes_of_access (exec_csrrw s rd rs1 a) window discards rfl
  case csrrwi => exact csrCompletes_of_access (exec_csrrwi s rd u a) window discards rfl
  case csrrs => exact csrCompletes_of_access (exec_csrrs s rd rs1 a) window nofun rfl
  case csrrsi => exact csrCompletes_of_access (exec_csrrsi s rd u a) window nofun rfl
  case csrrc => exact csrCompletes_of_access (exec_csrrc s rd rs1 a) window nofun rfl
  case csrrci => exact csrCompletes_of_access (exec_csrrci s rd u a) window nofun rfl

end Sys2Proof.Machine
end

section
/-! The environment instructions and the fences (R197 to R200). -/

namespace Sys2Proof.Machine

/-- The fetch view made memory. -/
theorem OnlyChanges.syncFetch (s : State) : OnlyChanges { fetchView := true } s s.syncFetch where
  xKept _ _ := rfl
  fKept _ _ := rfl
  fcsrKept _ := rfl
  resvKept _ := rfl
  memKept _ _ := rfl
  fetchViewKept h := by cases h
  trapKept := rfl
  paramsKept := rfl
  drawsKept _ := rfl

/-- Settles O33: the whole effect of `ecall` and `ebreak` is the trap, that of `fence` the new `pc`; `fence.i` also drops every
older value of the fetch view. -/
theorem environmentInstructionsAndFences : Obligations.EnvironmentInstructionsAndFences := by
  intro s fm p q rs1 rd imm
  refine ⟨?ecall, ?ebreak, ?fence, ?fenceI⟩
  case ecall => exact rfl
  case ebreak => exact rfl
  case fence => exact ⟨s.advance, rfl, s.advance_pc_toNat, .pcOnly { } s _, trivial⟩
  case fenceI =>
    exact ⟨s.syncFetch.advance, rfl, s.syncFetch.advance_pc_toNat, (OnlyChanges.syncFetch s).setPc _,
      State.fetchChoices_of_stale_nil rfl⟩

end Sys2Proof.Machine
end

section
/-! Multiplication and division (R205 to R219): the products as exact integers, and the four division operations at every
width: their values for a divisor that is not zero, the rows of the table of R219, and what the quotient and the remainder
make together. -/

namespace Sys2Proof.Machine

-- ==== Products ====

/-- The high half of an integer modulo 2^128 is that integer divided by 2^64, rounded down. -/
theorem highHalf_ofInt (n : Int) : highHalf (BitVec.ofInt 128 n) = BitVec.ofInt 64 (n / 2 ^ 64) := by
  apply BitVec.eq_of_toNat_eq
  rw [highHalf, BitVec.extractLsb'_toNat, BitVec.toNat_ofInt, BitVec.toNat_ofInt, Nat.shiftRight_eq_div_pow]
  omega

/-- An operand read without sign, at twice its width. -/
theorem setWidth_eq_ofInt (x : Dword) : x.setWidth 128 = BitVec.ofInt 128 x.toNat := by
  rw [BitVec.ofInt_natCast, BitVec.ofNat_toNat]

/-- The high half of a product of operands given as integers. -/
theorem highHalf_mul (m n : Int) :
    highHalf (BitVec.ofInt 128 m * BitVec.ofInt 128 n) = BitVec.ofInt 64 (m * n / 2 ^ 64) := by
  rw [← BitVec.ofInt_mul, highHalf_ofInt]

/-- Settles O34: each product is that of two integers modulo a power of two; the high halves differ only in how an operand is
read. -/
theorem multiply : Obligations.Multiply := by
  intro s rd rs1 rs2 a b
  refine ⟨completesX_of_writeBack rfl ?mul, completesX_of_writeBack rfl ?mulw, completesX_of_writeBack rfl ?mulh,
    completesX_of_writeBack rfl ?mulhu, completesX_of_writeBack rfl ?mulhsu⟩
  case mul => rw [BitVec.ofInt_mul, BitVec.ofInt_toInt, BitVec.ofInt_toInt]
  case mulw => rw [sextWord, s.readXW_eq_ofInt, s.readXW_eq_ofInt, BitVec.ofInt_mul]
  case mulh => rw [signExtend_eq_ofInt, signExtend_eq_ofInt, highHalf_mul]
  case mulhu =>
    rw [setWidth_eq_ofInt, setWidth_eq_ofInt, highHalf_mul, ← BitVec.ofInt_natCast]
    rfl
  case mulhsu => rw [signExtend_eq_ofInt, setWidth_eq_ofInt, highHalf_mul]

-- ==== The division operations, at every width ====

section Division

variable {w : Nat} {a b : BitVec w}

/-- Division by -1 negates, so that the quotient that does not fit is that of a negation (R219). -/
theorem ofInt_tdiv_neg_one (a : BitVec w) : BitVec.ofInt w (a.toInt.tdiv (-1)) = -a := by
  rw [Int.tdiv_neg, Int.tdiv_one, BitVec.ofInt_neg, BitVec.ofInt_toInt]

/-- The integer -1 divides everything. -/
theorem ofInt_tmod_neg_one (a : BitVec w) : BitVec.ofInt w (a.toInt.tmod (-1)) = 0#w := by
  rw [Int.tmod_neg, Int.tmod_one, BitVec.ofInt_ofNat]

/-- All ones read as -1, unless the width is 0. -/
theorem toInt_allOnes_of_ne_zero (h : BitVec.allOnes w ≠ 0#w) : (BitVec.allOnes w).toInt = -1 := by
  have pos : 0 < w := Nat.pos_of_ne_zero fun hw => h (by subst hw; rfl)
  rw [BitVec.toInt_allOnes, if_pos pos]

/-- A divisor that reads as -1 is not zero. -/
theorem ne_zero_of_toInt_eq_neg_one (h : b.toInt = -1) : b ≠ 0#w := by
  rintro rfl
  rw [BitVec.toInt_zero] at h
  cases h

/-- The quotient by zero (R219). -/
theorem divSigned_of_eq_zero (zero : b = 0#w) : divSigned a b = BitVec.allOnes w := if_pos zero

/-- The remainder by zero (R219). -/
theorem remSigned_of_eq_zero (zero : b = 0#w) : remSigned a b = a := if_pos zero

/-- The unsigned quotient by zero (R219). -/
theorem divUnsigned_of_eq_zero (zero : b = 0#w) : divUnsigned a b = BitVec.allOnes w := if_pos zero

/-- The unsigned remainder by zero (R219). -/
theorem remUnsigned_of_eq_zero (zero : b = 0#w) : remUnsigned a b = a := if_pos zero

/-- The signed quotient; the one that does not fit is the truncated quotient too, modulo the power of two. -/
theorem divSigned_of_ne_zero (nonzero : b ≠ 0#w) : divSigned a b = BitVec.ofInt w (a.toInt.tdiv b.toInt) := by
  rw [divSigned, if_neg nonzero]
  split_ifs with overflow
  · obtain ⟨rfl, rfl⟩ := overflow
    rw [toInt_allOnes_of_ne_zero nonzero, ofInt_tdiv_neg_one, BitVec.neg_intMin]
  · rfl

/-- The signed remainder; where the quotient does not fit it is the truncated remainder too, which is 0. -/
theorem remSigned_of_ne_zero (nonzero : b ≠ 0#w) : remSigned a b = BitVec.ofInt w (a.toInt.tmod b.toInt) := by
  rw [remSigned, if_neg nonzero]
  split_ifs with overflow
  · obtain ⟨rfl, rfl⟩ := overflow
    rw [toInt_allOnes_of_ne_zero nonzero, ofInt_tmod_neg_one]
  · rw [Int.tmod_def]

/-- The unsigned quotient. -/
theorem divUnsigned_of_ne_zero (nonzero : b ≠ 0#w) : divUnsigned a b = BitVec.ofNat w (a.toNat / b.toNat) := if_neg nonzero

/-- The unsigned remainder. -/
theorem remUnsigned_of_ne_zero (nonzero : b ≠ 0#w) : remUnsigned a b = BitVec.ofNat w (a.toNat % b.toNat) := if_neg nonzero

/-- The quotient that does not fit is the dividend (R219). -/
theorem divSigned_overflow (pos : 0 < w) (least : a.toInt = -2 ^ (w - 1)) (minus : b.toInt = -1) : divSigned a b = a := by
  obtain rfl : a = BitVec.intMin w := BitVec.eq_of_toInt_eq (least.trans (BitVec.toInt_intMin_of_pos pos).symm)
  rw [divSigned_of_ne_zero (ne_zero_of_toInt_eq_neg_one minus), minus, ofInt_tdiv_neg_one, BitVec.neg_intMin]

/-- The remainder by -1, that of the quotient that does not fit included (R219). -/
theorem remSigned_neg_one (minus : b.toInt = -1) : remSigned a b = 0#w := by
  rw [remSigned_of_ne_zero (ne_zero_of_toInt_eq_neg_one minus), minus, ofInt_tmod_neg_one]

/-- The signed remainder read as an integer: a truncated remainder always fits. -/
theorem remSigned_toInt (nonzero : b ≠ 0#w) : (remSigned a b).toInt = a.toInt.tmod b.toInt := by
  rw [remSigned_of_ne_zero nonzero, ← BitVec.toInt_srem, BitVec.ofInt_toInt]

/-- The unsigned remainder read as an integer. -/
theorem remUnsigned_toNat (nonzero : b ≠ 0#w) : (remUnsigned a b).toNat = a.toNat % b.toNat := by
  rw [remUnsigned_of_ne_zero nonzero, BitVec.toNat_ofNat, Nat.mod_eq_of_lt ((Nat.mod_le _ _).trans_lt a.isLt)]

/-- The signed division identity; by zero the remainder alone is the dividend. -/
theorem divSigned_remSigned (a b : BitVec w) : a = b * divSigned a b + remSigned a b := by
  by_cases zero : b = 0#w
  · rw [remSigned_of_eq_zero zero, zero, BitVec.zero_mul, BitVec.zero_add]
  · calc
      a = BitVec.ofInt w (b.toInt * a.toInt.tdiv b.toInt + a.toInt.tmod b.toInt) := by
        rw [Int.mul_tdiv_add_tmod, BitVec.ofInt_toInt]
      _ = b * divSigned a b + remSigned a b := by
        rw [BitVec.ofInt_add, BitVec.ofInt_mul, BitVec.ofInt_toInt, divSigned_of_ne_zero zero, remSigned_of_ne_zero zero]

/-- The unsigned division identity. -/
theorem divUnsigned_remUnsigned (a b : BitVec w) : a = b * divUnsigned a b + remUnsigned a b := by
  by_cases zero : b = 0#w
  · rw [remUnsigned_of_eq_zero zero, zero, BitVec.zero_mul, BitVec.zero_add]
  · calc
      a = BitVec.ofNat w (b.toNat * (a.toNat / b.toNat) + a.toNat % b.toNat) := by
        rw [Nat.div_add_mod, BitVec.ofNat_toNat, BitVec.setWidth_eq]
      _ = b * divUnsigned a b + remUnsigned a b := by
        rw [BitVec.ofNat_add, BitVec.ofNat_mul, BitVec.ofNat_toNat, BitVec.setWidth_eq, divUnsigned_of_ne_zero zero,
          remUnsigned_of_ne_zero zero]

/-- The signed remainder is smaller than the divisor. -/
theorem remSigned_natAbs_lt (nonzero : b ≠ 0#w) : (remSigned a b).toInt.natAbs < b.toInt.natAbs := by
  have positive : 0 < b.toInt.natAbs :=
    Int.natAbs_pos.mpr fun zero => nonzero (BitVec.eq_of_toInt_eq (zero.trans BitVec.toInt_zero.symm))
  rw [remSigned_toInt nonzero, Int.natAbs_tmod]
  exact Nat.mod_lt _ positive

/-- The unsigned remainder is smaller than the divisor. -/
theorem remUnsigned_lt (nonzero : b ≠ 0#w) : (remUnsigned a b).toNat < b.toNat := by
  have positive : 0 < b.toNat := Nat.pos_of_ne_zero fun zero => nonzero (BitVec.eq_of_toNat_eq zero)
  rw [remUnsigned_toNat nonzero]
  exact Nat.mod_lt _ positive

end Division

-- ==== The instructions ====

/-- A Word form: an operation on bits 31:0 of two registers, its result sign-extended (R205). -/
theorem completesX_of_wordOp {i : Instr} {s : State} {rd rs1 rs2 : Reg} {v : Word} (op : Word → Word → Word)
    (h : exec i s = s.writeBack rd (sextWord (op (s.readXW rs1) (s.readXW rs2))))
    (hv : op ((s.readX rs1).extractLsb' 0 32) ((s.readX rs2).extractLsb' 0 32) = v) :
    CompletesX i s rd (v.signExtend 64) :=
  completesX_of_writeBack h (by rw [s.readXW_eq_extractLsb', s.readXW_eq_extractLsb', hv, sextWord])

/-- Settles O35: the four operations by a divisor that is not zero, at both widths. -/
theorem divideAndRemainder : Obligations.DivideAndRemainder := by
  intro s rd rs1 rs2 a b c d
  refine ⟨fun nonzero => ⟨?div, ?divu, ?rem, ?remu⟩, fun nonzero => ⟨?divw, ?divuw, ?remw, ?remuw⟩⟩
  case div => exact completesX_of_writeBack rfl (divSigned_of_ne_zero nonzero)
  case divu => exact completesX_of_writeBack rfl (divUnsigned_of_ne_zero nonzero)
  case rem => exact completesX_of_writeBack rfl (remSigned_of_ne_zero nonzero)
  case remu => exact completesX_of_writeBack rfl (remUnsigned_of_ne_zero nonzero)
  case divw => exact completesX_of_wordOp divSigned rfl (divSigned_of_ne_zero nonzero)
  case divuw => exact completesX_of_wordOp divUnsigned rfl (divUnsigned_of_ne_zero nonzero)
  case remw => exact completesX_of_wordOp remSigned rfl (remSigned_of_ne_zero nonzero)
  case remuw => exact completesX_of_wordOp remUnsigned rfl (remUnsigned_of_ne_zero nonzero)

/-- Settles O36: the rows of the table at both widths. -/
theorem divisionCornerCases : Obligations.DivisionCornerCases := by
  intro s rd rs1 rs2 a b c d
  have allOnes_extends : (BitVec.allOnes 32).signExtend 64 = BitVec.allOnes 64 := by decide
  have zero_extends : (0#32).signExtend 64 = 0 := by decide
  refine ⟨fun zero => ?byZero, fun zero => ?byZeroWord, fun least minus => ?overflow, fun least minus => ?overflowWord⟩
  case byZero =>
    exact ⟨completesX_of_writeBack rfl (divSigned_of_eq_zero zero), completesX_of_writeBack rfl (divUnsigned_of_eq_zero zero),
      completesX_of_writeBack rfl (remSigned_of_eq_zero zero), completesX_of_writeBack rfl (remUnsigned_of_eq_zero zero)⟩
  case byZeroWord =>
    rw [← allOnes_extends]
    exact ⟨completesX_of_wordOp divSigned rfl (divSigned_of_eq_zero zero),
      completesX_of_wordOp divUnsigned rfl (divUnsigned_of_eq_zero zero),
      completesX_of_wordOp remSigned rfl (remSigned_of_eq_zero zero),
      completesX_of_wordOp remUnsigned rfl (remUnsigned_of_eq_zero zero)⟩
  case overflow =>
    exact ⟨completesX_of_writeBack rfl (divSigned_overflow (by decide) least minus),
      completesX_of_writeBack rfl (remSigned_neg_one minus)⟩
  case overflowWord =>
    rw [← zero_extends]
    exact ⟨completesX_of_wordOp divSigned rfl (divSigned_overflow (by decide) least minus),
      completesX_of_wordOp remSigned rfl (remSigned_neg_one minus)⟩

/-- Settles O37: the two identities and the two bounds at width 64. -/
theorem dividendIsDivisorTimesQuotientPlusRemainder : Obligations.DividendIsDivisorTimesQuotientPlusRemainder := fun a b =>
  ⟨divSigned_remSigned a b, divUnsigned_remUnsigned a b, fun nonzero => ⟨remSigned_natAbs_lt nonzero, remUnsigned_lt nonzero⟩⟩

end Sys2Proof.Machine
end

section
/-! The accrued flags and the rounding mode (R34, R228) through every instruction but the `csrr*`. -/

namespace Sys2Proof.Machine

/-- From `s` to `t` the rounding mode stays, and every flag that was set. -/
structure KeepsFlags (s t : State) : Prop where
  /-- The rounding mode. -/
  frm : t.frm = s.frm
  /-- The flags. -/
  fflags : t.fflags &&& s.fflags = s.fflags

/-- An update that leaves `fcsr` alone. -/
theorem KeepsFlags.of_eq {s t : State} (fcsr : t.fcsr = s.fcsr) : KeepsFlags s t where
  frm := by rw [State.frm, State.frm, fcsr]
  fflags := by rw [State.fflags, State.fflags, fcsr, BitVec.and_self]

/-- An update that accrues flags and leaves the rest of `fcsr` alone: they come on top of those that were set (R228). -/
theorem KeepsFlags.of_accrued {s t : State} {F : Flags} (fcsr : t.fcsr = (s.accrue F).fcsr) : KeepsFlags s t where
  frm := by rw [State.frm, fcsr, ← State.frm, State.accrue_frm]
  fflags := by
    rw [State.fflags, fcsr, ← State.fflags, State.accrue_fflags, BitVec.and_comm]
    ext i
    simp +contextual

/-- However an instruction but the `csrr*` ends, the flags stay: an instruction with flags accrues them, and no other end
writes `fcsr`. -/
theorem Ending.keepsFlags {s t : State} {i : Instr} {r : Result} (h : Ending s i r) (other : ¬ IsCsr i) (ht : r = .next t) :
    KeepsFlags s t := by
  cases h with
  | writeX | writeF | completes | syncFetch | takeTrap => cases ht; exact .of_eq rfl
  | writeXFlags _ _ F | writeFFlags _ _ F => cases ht; exact .of_accrued (F := F) rfl
  | branchIf => obtain ⟨_, rfl⟩ | ⟨_, rfl⟩ := State.branchIf_next ht <;> exact .of_eq rfl
  | jumpTo => obtain rfl | rfl := State.jumpTo_next ht <;> exact .of_eq rfl
  | loadX | loadF | amo | loadReserved =>
    obtain ⟨_, _, _, rfl⟩ | ⟨_, _, rfl⟩ := State.read_finish_next ht <;> exact .of_eq rfl
  | store => obtain ⟨_, rfl⟩ | ⟨_, rfl⟩ := State.store_next ht <;> exact .of_eq rfl
  | storeConditional =>
    obtain ⟨_, rfl⟩ | ⟨_, rfl | rfl, rfl | ⟨_, rfl⟩⟩ := State.storeConditional_next ht <;> exact .of_eq rfl
  | csrAccess _ _ _ _ _ isCsr => exact absurd isCsr other

/-- Settles O16: every instruction ends in one of the shared operations. -/
theorem onlyCsrInstructionsClearFlags : Obligations.OnlyCsrInstructionsClearFlags := by
  intro i s t other executed
  have kept := (exec_ending i s).keepsFlags other executed
  exact ⟨kept.frm, kept.fflags⟩

end Sys2Proof.Machine
end

section
/-! The rounding mode of an instruction, and what a reserved one raises (R98, R227). -/

namespace Sys2Proof.Machine

/-- The codes of the five modes, in order; a code beyond them names none (R34). -/
theorem RMode.ofCode_eq_getD (c : BitVec 3) :
    RMode.ofCode c = [some .rne, some .rtz, some .rdn, some .rup, some .rmm].getD c.toNat none := by
  revert c
  decide

/-- An instruction with an rm field raises where its mode is reserved. -/
theorem traps_of_reservedRm {i : Instr} {s : State} {rm : BitVec 3} {k : RMode → Result} (h : exec i s = s.withRm i rm k)
    (reserved : s.rmode rm = none) : Traps i s (.illegalInstruction (encode i)) := by
  rw [State.withRm, reserved] at h
  exact h

/-- Settles O47: the code is the field's or, where that is 111, frm's, which is the upper three bits of `fcsr`; each of the 36
instructions asks for its mode first. -/
theorem reservedRoundingModeIsIllegal : Obligations.ReservedRoundingModeIsIllegal := by
  intro s rd rs1 rs2 rs3 rm
  refine ⟨?mode, fun reserved => ?raises⟩
  case mode =>
    rw [State.rmode, RMode.ofCode_eq_getD, RMode.ofCode_eq_getD, State.frm_toNat]
    exact (apply_ite (List.getD _ · none) ..).symm
  case raises =>
    simp only [List.forall_mem_cons, List.not_mem_nil, false_implies, implies_true, and_true]
    with_reducible and_intros
    all_goals exact traps_of_reservedRm rfl reserved

end Sys2Proof.Machine
end

section
/-! Sign injection and the moves (R234 to R239, R252 to R256); minimum, maximum, comparison and classification as instructions
(R240 to R251). -/

namespace Sys2Proof.Machine

/-- A boxed single with its sign replaced: the new sign before bits 30:0 (R256). -/
theorem box_withSign (neg : Bool) (r : Word) :
    box (withSign neg r) = 0xFFFFFFFF#32 ++ (BitVec.ofBool neg ++ r.extractLsb' 0 31) := rfl

/-- A double with its sign replaced: the new sign before bits 62:0 (R256). -/
theorem withSign_dword (neg : Bool) (r : Dword) : withSign neg r = BitVec.ofBool neg ++ r.extractLsb' 0 63 := rfl

/-- Settles O39: a sign injection puts a sign, which is a top bit, before the other bits of `rs1`; the moves copy. -/
theorem signInjectionAndMoves : Obligations.SignInjectionAndMoves := by
  intro s rd rs1 rs2 a b c d single double
  refine ⟨completesF_of_putS rfl ?fsgnjS, completesF_of_putS rfl ?fsgnjnS, completesF_of_putS rfl ?fsgnjxS,
    completesF_of_putD rfl ?fsgnjD, completesF_of_putD rfl ?fsgnjnD, completesF_of_putD rfl ?fsgnjxD,
    completesF_of_putS rfl ?fmvSX, completesF_of_putD rfl rfl, completesX_of_writeBack rfl ?fmvXS,
    completesX_of_writeBack rfl rfl⟩
  case fsgnjS | fsgnjnS => rw [box_withSign, BitVec.msb_eq_getLsbD_last]
  case fsgnjxS => rw [box_withSign, BitVec.msb_eq_getLsbD_last, BitVec.msb_eq_getLsbD_last]
  case fsgnjD | fsgnjnD => rw [withSign_dword, BitVec.msb_eq_getLsbD_last]
  case fsgnjxD => rw [withSign_dword, BitVec.msb_eq_getLsbD_last, BitVec.msb_eq_getLsbD_last]
  case fmvSX => rw [box, s.readXW_eq_extractLsb']
  case fmvXS => rw [sextWord, BitVec.setWidth_eq_extractLsb' (by decide)]

/-- Settles O40: each is its operation, ended as a single, a double or a comparison. -/
theorem minMaxCompareClassifyComplete : Obligations.MinMaxCompareClassifyComplete := by
  intro s rd rs1 rs2 a b c d
  simp only [List.forall_mem_cons, List.not_mem_nil, false_implies, implies_true, and_true]
  refine ⟨?singles, ?doubles, ?comparisons, ?fclassS, ?fclassD⟩
  case singles => with_reducible and_intros <;> exact completesFFlags_of_finishS rfl
  case doubles => with_reducible and_intros <;> exact completesFFlags_of_finishD rfl
  case comparisons => with_reducible and_intros <;> exact completesXFlags_of rfl
  case fclassS => exact completesX_of_writeBack rfl rfl
  case fclassD => exact completesX_of_writeBack rfl rfl

end Sys2Proof.Machine
end

section
/-! Patterns by their fields, and the classes (R225, R259). -/

namespace Sys2Proof.Machine

section Fields

variable {F : Fmt} {a : Nat}

/-- The fraction field fits its width. -/
theorem Fmt.fracField_lt (F : Fmt) (a : Nat) : F.fracField a < 2 ^ F.fracBits := Nat.mod_lt _ (Nat.two_pow_pos _)

/-- An exponent of all ones over a zero fraction is an infinity. -/
theorem Fmt.unpack_eq_inf (ones : F.expField a = 2 ^ F.expBits - 1) (zero : F.fracField a = 0) :
    F.unpack a = .inf (F.signField a) := by rw [Fmt.unpack, if_pos ones, if_pos zero]

/-- An exponent of all ones over another fraction is a NaN. -/
theorem Fmt.unpack_eq_nan (ones : F.expField a = 2 ^ F.expBits - 1) (nonzero : F.fracField a ≠ 0) :
    F.unpack a = .nan (decide (F.fracField a < 2 ^ (F.fracBits - 1))) := by rw [Fmt.unpack, if_pos ones, if_neg nonzero]

/-- A zero exponent is a zero or a subnormal number. -/
theorem Fmt.unpack_eq_subnormal (notOnes : F.expField a ≠ 2 ^ F.expBits - 1) (zero : F.expField a = 0) :
    F.unpack a = .fin (F.signField a) (F.fracField a) (F.emin - F.fracBits) := by
  rw [Fmt.unpack, if_neg notOnes, if_pos zero]

/-- Any other exponent is a normal number. -/
theorem Fmt.unpack_eq_normal (notOnes : F.expField a ≠ 2 ^ F.expBits - 1) (nonzero : F.expField a ≠ 0) :
    F.unpack a =
      .fin (F.signField a) (2 ^ F.fracBits + F.fracField a) (F.expField a - F.bias - F.fracBits) := by
  rw [Fmt.unpack, if_neg notOnes, if_neg nonzero]

/-- A nonzero fraction is below half its range where its top bit is 0. -/
theorem Fmt.fracField_lt_half (nonzero : F.fracField a ≠ 0) :
    F.fracField a < 2 ^ (F.fracBits - 1) ↔ (F.fracField a).testBit (F.fracBits - 1) = false := by
  have fits := F.fracField_lt a
  have width : F.fracBits - 1 + 1 = F.fracBits := by
    refine Nat.sub_add_cancel (Nat.pos_of_ne_zero fun none => nonzero ?_)
    rw [Fmt.fracField, none, Nat.pow_zero, Nat.mod_one]
  refine ⟨Nat.testBit_lt_two_pow, fun clear => ?_⟩
  by_contra large
  rw [Nat.testBit_of_two_pow_le_and_two_pow_add_one_gt (Nat.le_of_not_lt large) (by rwa [width])] at clear
  cases clear

end Fields

/-- Settles O43: the four kinds of pattern, one for each row of the table of R225 (zeros and subnormals share one). -/
theorem classifyFollowsTable : Obligations.ClassifyFollowsTable := by
  intro F _ a E T n
  rw [Fmt.classBit]
  by_cases ones : E = 2 ^ F.expBits - 1
  · rw [if_pos ones]
    by_cases zero : T = 0
    · rw [if_pos zero, Fmt.unpack_eq_inf ones zero]
    · rw [if_neg zero, Fmt.unpack_eq_nan ones zero]
      simp only [decide_eq_true_eq, Fmt.fracField_lt_half zero]
      cases T.testBit (F.fracBits - 1) <;> simp
  · rw [if_neg ones]
    by_cases zero : E = 0
    · rw [if_pos zero, Fmt.unpack_eq_subnormal ones zero]
      exact if_congr Iff.rfl rfl (if_pos zero)
    · rw [if_neg zero, Fmt.unpack_eq_normal ones zero]
      have leading : 2 ^ F.fracBits + F.fracField a ≠ 0 := by positivity
      simp only [if_neg leading]
      exact if_neg zero

end Sys2Proof.Machine
end

section
/-! Finite values as rational numbers: negation and the exact sum (R225, R261). -/

namespace Sys2Proof.Machine

/-- A value with its sign inverted stands for the negative number. -/
theorem FpVal.toRat_negate (v : FpVal) : v.negate.toRat = -v.toRat := by
  cases v with
  | nan | inf => exact neg_zero.symm
  | fin neg m e => cases neg <;> simp [FpVal.negate, FpVal.toRat]

/-- A finite value is the signed integer of its magnitude in units of any lower power of two. -/
theorem FpVal.toRat_fin_eq_scaled {k e : ℤ} (h : k ≤ e) (neg : Bool) (m : ℕ) :
    (FpVal.fin neg m e).toRat =
      ((if neg then -(Int.ofNat (m * 2 ^ (e - k).toNat)) else Int.ofNat (m * 2 ^ (e - k).toNat) : ℤ) : ℚ) * 2 ^ k := by
  have split : (2 : ℚ) ^ e = 2 ^ (e - k).toNat * 2 ^ k := by
    rw [← zpow_natCast, Int.toNat_of_nonneg (sub_nonneg.mpr h), ← zpow_add₀ two_ne_zero, sub_add_cancel]
  cases neg <;> simp [FpVal.toRat, split, mul_assoc]

/-- The exact sum is the sum of the numbers, in units of the power of two it names. -/
theorem exactSum_eq_add (n₁ : Bool) (m₁ : ℕ) (e₁ : ℤ) (n₂ : Bool) (m₂ : ℕ) (e₂ : ℤ) :
    ((exactSum n₁ m₁ e₁ n₂ m₂ e₂).1 : ℚ) * 2 ^ (exactSum n₁ m₁ e₁ n₂ m₂ e₂).2 =
      (FpVal.fin n₁ m₁ e₁).toRat + (FpVal.fin n₂ m₂ e₂).toRat := by
  rw [FpVal.toRat_fin_eq_scaled (min_le_left e₁ e₂), FpVal.toRat_fin_eq_scaled (min_le_right e₁ e₂), ← add_mul, ← Int.cast_add]
  rfl

/-- The exact sum with the second sign inverted is the difference. -/
theorem exactSum_not_eq_sub (n₁ : Bool) (m₁ : ℕ) (e₁ : ℤ) (n₂ : Bool) (m₂ : ℕ) (e₂ : ℤ) :
    ((exactSum n₁ m₁ e₁ (!n₂) m₂ e₂).1 : ℚ) * 2 ^ (exactSum n₁ m₁ e₁ (!n₂) m₂ e₂).2 =
      (FpVal.fin n₁ m₁ e₁).toRat - (FpVal.fin n₂ m₂ e₂).toRat := by
  rw [exactSum_eq_add, sub_eq_add_neg, ← FpVal.toRat_negate, FpVal.negate]

end Sys2Proof.Machine
end

section
/-! The comparisons (R244 to R249, R258) and `fminmax` (R257) in terms of the numbers with −∞ and +∞. -/

namespace Sys2Proof.Machine

-- ==== Finite values ====

section Finite

variable (n₁ : Bool) (m₁ : ℕ) (e₁ : ℤ) (n₂ : Bool) (m₂ : ℕ) (e₂ : ℤ)

/-- Finite values compare by the sign of their exact difference. -/
theorem FpVal.lt_fin_iff :
    (FpVal.fin n₁ m₁ e₁).lt (.fin n₂ m₂ e₂) = true ↔ (FpVal.fin n₁ m₁ e₁).toRat < (FpVal.fin n₂ m₂ e₂).toRat := by
  have unit : (0 : ℚ) < 2 ^ (exactSum n₁ m₁ e₁ (!n₂) m₂ e₂).2 := zpow_pos two_pos _
  rw [FpVal.lt, decide_eq_true_iff, ← Int.cast_lt_zero (R := ℚ), ← mul_lt_mul_iff_left₀ unit, zero_mul, exactSum_not_eq_sub,
    sub_neg]

/-- Finite values are equal where their exact difference is 0. -/
theorem FpVal.eq_fin_iff :
    (FpVal.fin n₁ m₁ e₁).eq (.fin n₂ m₂ e₂) = true ↔ (FpVal.fin n₁ m₁ e₁).toRat = (FpVal.fin n₂ m₂ e₂).toRat := by
  have unit : (2 : ℚ) ^ (exactSum n₁ m₁ e₁ (!n₂) m₂ e₂).2 ≠ 0 := zpow_ne_zero _ two_ne_zero
  rw [FpVal.eq, decide_eq_true_iff, ← Int.cast_eq_zero (α := ℚ), ← mul_eq_zero_iff_right unit, exactSum_not_eq_sub,
    sub_eq_zero]

/-- A finite value is 0 where its magnitude is, whatever its sign. -/
theorem FpVal.toRat_fin_eq_zero_iff : (FpVal.fin n₁ m₁ e₁).toRat = 0 ↔ m₁ = 0 := by
  cases n₁ <;> simp [FpVal.toRat, zpow_ne_zero]

end Finite

-- ==== Values that are no NaN ====

section Numbers

variable {a b : FpVal}

/-- `lt` compares the numbers, infinities included. -/
theorem FpVal.lt_iff (ha : a.isNaN = false) (hb : b.isNaN = false) : a.lt b = true ↔ a.toExt < b.toExt := by
  cases a with
  | nan => cases ha
  | inf n₁ =>
    cases b with
    | nan => cases hb
    | inf n₂ => cases n₁ <;> cases n₂ <;> simp [FpVal.lt, FpVal.toExt]
    | fin => cases n₁ <;> simp [FpVal.lt, FpVal.toExt]
  | fin n₁ m₁ e₁ =>
    cases b with
    | nan => cases hb
    | inf n₂ =>
      cases n₂ with
      | true => simp [FpVal.lt, FpVal.toExt]
      | false => exact iff_of_true rfl (WithBot.coe_lt_coe.mpr (WithTop.coe_lt_top _))
    | fin n₂ m₂ e₂ => rw [FpVal.lt_fin_iff, FpVal.toExt, FpVal.toExt, WithBot.coe_lt_coe, WithTop.coe_lt_coe]

/-- `eq` compares the numbers, infinities included. -/
theorem FpVal.eq_iff (ha : a.isNaN = false) (hb : b.isNaN = false) : a.eq b = true ↔ a.toExt = b.toExt := by
  cases a with
  | nan => cases ha
  | inf n₁ =>
    cases b with
    | nan => cases hb
    | inf n₂ => cases n₁ <;> cases n₂ <;> simp [FpVal.eq, FpVal.toExt]
    | fin => cases n₁ <;> simp [FpVal.eq, FpVal.toExt]
  | fin n₁ m₁ e₁ =>
    cases b with
    | nan => cases hb
    | inf n₂ => cases n₂ <;> simp [FpVal.eq, FpVal.toExt]
    | fin n₂ m₂ e₂ => rw [FpVal.eq_fin_iff, FpVal.toExt, FpVal.toExt, WithBot.coe_inj, WithTop.coe_inj]

/-- Only the zeros stand for 0. -/
theorem FpVal.isZero_iff (ha : a.isNaN = false) : a.isZero = true ↔ a.toExt = 0 := by
  cases a with
  | nan => cases ha
  | inf n =>
    cases n with
    | true => simp [FpVal.isZero, FpVal.toExt]
    | false => exact iff_of_false nofun (WithBot.coe_injective.ne WithTop.top_ne_zero)
  | fin n m e =>
    rw [FpVal.isZero, decide_eq_true_iff, ← FpVal.toRat_fin_eq_zero_iff n m e, FpVal.toExt]
    norm_cast

/-- A signaling value is a NaN. -/
theorem FpVal.isSignaling_of_not_isNaN (ha : a.isNaN = false) : a.isSignaling = false := by
  cases a with
  | nan => cases ha
  | inf | fin => rfl

end Numbers

-- ==== NaNs ====

section NaNs

variable {a b : FpVal}

/-- With a NaN, `lt` is false. -/
theorem FpVal.lt_of_isNaN (h : (a.isNaN || b.isNaN) = true) : a.lt b = false := by
  cases a with
  | nan => rfl
  | inf | fin =>
    cases b with
    | nan => rfl
    | inf | fin => cases h

/-- With a NaN, `eq` is false. -/
theorem FpVal.eq_of_isNaN (h : (a.isNaN || b.isNaN) = true) : a.eq b = false := by
  cases a with
  | nan => rfl
  | inf | fin =>
    cases b with
    | nan => rfl
    | inf | fin => cases h

end NaNs

-- ==== The comparisons of patterns ====

/-- Settles O41: without a NaN the values compare as their numbers do; with one every comparison is false. -/
theorem comparisonsCompareTheNumbers : Obligations.ComparisonsCompareTheNumbers := by
  intro F _ a b va vb
  refine ⟨fun ha hb => ⟨FpVal.lt_iff ha hb, ?fle, FpVal.eq_iff ha hb, ?fltFlags, ?fleFlags, ?feqFlags⟩,
    fun nan => ⟨FpVal.lt_of_isNaN nan, ?fleNan, FpVal.eq_of_isNaN nan, ?fltNV, ?fleNV, rfl⟩⟩
  case fle =>
    calc (F.fle a b).holds = true
      _ ↔ va.lt vb = true ∨ va.eq vb = true := Bool.or_eq_true_iff
      _ ↔ va.toExt < vb.toExt ∨ va.toExt = vb.toExt := or_congr (FpVal.lt_iff ha hb) (FpVal.eq_iff ha hb)
      _ ↔ va.toExt ≤ vb.toExt := le_iff_lt_or_eq.symm
  case fltFlags | fleFlags =>
    have quiet : (va.isNaN || vb.isNaN) = false := by rw [ha, hb, Bool.or_self]
    exact congrArg (flagIf · flagNV) quiet
  case feqFlags =>
    have quiet : (va.isSignaling || vb.isSignaling) = false := by
      rw [FpVal.isSignaling_of_not_isNaN ha, FpVal.isSignaling_of_not_isNaN hb, Bool.or_self]
    exact congrArg (flagIf · flagNV) quiet
  case fleNan => exact Bool.or_eq_false_iff.mpr ⟨FpVal.lt_of_isNaN nan, FpVal.eq_of_isNaN nan⟩
  case fltNV | fleNV => exact congrArg (flagIf · flagNV) nan

-- ==== The branches of `fminmax`, in the order of R257 ====

section MinMax

variable {F : Fmt} {a b : Nat}

theorem Fmt.minmax_bits_of_two_nans (ha : (F.unpack a).isNaN = true) (hb : (F.unpack b).isNaN = true) (isMax : Bool) :
    (F.minmax isMax a b).bits = F.canonicalNaN := by simp [Fmt.minmax, ha, hb]

theorem Fmt.minmax_bits_of_left_nan (ha : (F.unpack a).isNaN = true) (hb : (F.unpack b).isNaN = false) (isMax : Bool) :
    (F.minmax isMax a b).bits = b := by simp [Fmt.minmax, ha, hb]

theorem Fmt.minmax_bits_of_right_nan (ha : (F.unpack a).isNaN = false) (hb : (F.unpack b).isNaN = true) (isMax : Bool) :
    (F.minmax isMax a b).bits = a := by simp [Fmt.minmax, ha, hb]

variable (ha : (F.unpack a).isNaN = false) (hb : (F.unpack b).isNaN = false)
include ha hb

theorem Fmt.minmax_bits_of_zeros (za : (F.unpack a).isZero = true) (zb : (F.unpack b).isZero = true) (isMax : Bool) :
    (F.minmax isMax a b).bits =
      if isMax then F.zero (F.signField a && F.signField b) else F.zero (F.signField a || F.signField b) := by
  simp [Fmt.minmax, ha, hb, za, zb]

theorem Fmt.minmax_bits_of_not_zeros (notZeros : ((F.unpack a).isZero && (F.unpack b).isZero) = false) (isMax : Bool) :
    (F.minmax isMax a b).bits =
      if isMax then if (F.unpack b).lt (F.unpack a) then a else b else if (F.unpack a).lt (F.unpack b) then a else b := by
  simp [Fmt.minmax, ha, hb, notZeros]

end MinMax

/-- Settles O42: `fminmax` tests for two NaNs, one NaN and two zeros, and then compares the numbers. -/
theorem minMaxFollowsRule : Obligations.MinMaxFollowsRule := by
  intro F _ a b va vb
  refine ⟨fun _ => rfl, Fmt.minmax_bits_of_two_nans, Fmt.minmax_bits_of_left_nan, Fmt.minmax_bits_of_right_nan,
    fun ha hb za zb => ?zeros, fun ha hb nonzero => ?others⟩
  case zeros =>
    have ends := Fmt.minmax_bits_of_zeros ha hb ((FpVal.isZero_iff ha).mpr za) ((FpVal.isZero_iff hb).mpr zb)
    exact ⟨ends false, ends true⟩
  case others =>
    have notZeros : (va.isZero && vb.isZero) = false := by
      rwa [Bool.eq_false_iff, Ne, Bool.and_eq_true, FpVal.isZero_iff ha, FpVal.isZero_iff hb, not_and_or]
    have ends := Fmt.minmax_bits_of_not_zeros ha hb notZeros
    simp only [← FpVal.lt_iff ha hb, ← FpVal.lt_iff hb ha]
    exact ⟨ends false, ends true⟩

end Sys2Proof.Machine
end

section
/-! The rounding instructions under a usable mode (R260 to R285), and the flags of a rounding (R265). -/

namespace Sys2Proof.Machine

section UsableMode

variable {i : Instr} {s : State} {rd : Reg} {rm : BitVec 3} {m : RMode} {k : RMode → Result} {o : FpOut}

/-- An instruction with an rm field that ends with a single and flags. -/
theorem completesFFlags_of_withRmS (usable : s.rmode rm = some m) (h : exec i s = s.withRm i rm k)
    (ends : k m = s.finishS rd o) : CompletesFFlags i s rd (0xFFFFFFFF#32 ++ BitVec.ofNat 32 o.bits) o.flags :=
  completesFFlags_of_finishS (by rw [h, State.withRm, usable, ← ends])

/-- An instruction with an rm field that ends with a double and flags. -/
theorem completesFFlags_of_withRmD (usable : s.rmode rm = some m) (h : exec i s = s.withRm i rm k)
    (ends : k m = s.finishD rd o) : CompletesFFlags i s rd (BitVec.ofNat 64 o.bits) o.flags :=
  completesFFlags_of_finishD (by rw [h, State.withRm, usable, ← ends])

end UsableMode

/-- Settles O44: each of the twelve asks for its mode and ends as a single or as a double. -/
theorem fpArithmeticCompletes : Obligations.FpArithmeticCompletes := by
  intro s rd rs1 rs2 rm m usable a b c d
  simp only [List.forall_mem_cons, List.not_mem_nil, false_implies, implies_true, and_true]
  refine ⟨?singles, ?doubles⟩
  case singles => with_reducible and_intros <;> exact completesFFlags_of_withRmS usable rfl rfl
  case doubles => with_reducible and_intros <;> exact completesFFlags_of_withRmD usable rfl rfl

/-- Settles O45: each of the eight asks for its mode and ends as a single or as a double. -/
theorem fpFusedCompletes : Obligations.FpFusedCompletes := by
  intro s rd rs1 rs2 rs3 rm m usable fs fd
  simp only [List.forall_mem_cons, List.not_mem_nil, false_implies, implies_true, and_true]
  refine ⟨?singles, ?doubles⟩
  case singles => with_reducible and_intros <;> exact completesFFlags_of_withRmS usable rfl rfl
  case doubles => with_reducible and_intros <;> exact completesFFlags_of_withRmD usable rfl rfl

-- ==== The branches of `round` ====

section Round

variable {F : Fmt} {rm : RMode} {v : Exact} {zs : Bool}

/-- The exponent of the last place of the result of rounding `v`: that of a normal number, or that of the subnormals. -/
def Fmt.lastPlace (F : Fmt) (v : Exact) : ℤ := max v.log2 F.emin - F.fracBits

/-- Zero rounds to a zero of the caller's sign (R265). -/
theorem Fmt.round_of_zero (zero : v.mag = 0 ∧ v.sticky = false) : F.round rm v zs = ⟨F.zero zs, 0⟩ := if_pos zero

/-- A rounded magnitude in the range of the format is packed; it is tiny where rounding without a least exponent stays below
the normal numbers (R265). -/
theorem Fmt.round_of_below (nonzero : ¬ (v.mag = 0 ∧ v.sticky = false))
    (below : belowPow (v.quantize rm (F.lastPlace v)).1 (F.lastPlace v) (F.bias + 1) = true) :
    F.round rm v zs =
      ⟨F.pack v.neg (v.quantize rm (F.lastPlace v)).1 (F.lastPlace v),
        flagIf (v.quantize rm (F.lastPlace v)).2 flagNX |||
          flagIf ((v.quantize rm (F.lastPlace v)).2 &&
            belowPow (v.quantize rm (v.log2 - F.fracBits)).1 (v.log2 - F.fracBits) F.emin) flagUF⟩ :=
  (if_neg nonzero).trans (if_pos below)

/-- A rounded magnitude beyond the range overflows (R265). -/
theorem Fmt.round_of_not_below (nonzero : ¬ (v.mag = 0 ∧ v.sticky = false))
    (beyond : ¬ belowPow (v.quantize rm (F.lastPlace v)).1 (F.lastPlace v) (F.bias + 1) = true) :
    F.round rm v zs = ⟨if overflowsToInf rm v.neg then F.infinity v.neg else F.maxFinite v.neg, flagOF ||| flagNX⟩ :=
  (if_neg nonzero).trans (if_neg beyond)

/-- The flag sets of a rounding: none, NX, UF with NX, OF with NX (R265). -/
def roundingFlags : List Flags := [0, flagNX, flagNX ||| flagUF, flagOF ||| flagNX]

/-- Every rounding ends with one of these flag sets. -/
theorem Fmt.round_flags (F : Fmt) (rm : RMode) (v : Exact) (zs : Bool) : (F.round rm v zs).flags ∈ roundingFlags := by
  have inRange : ∀ inexact tiny, flagIf inexact flagNX ||| flagIf (inexact && tiny) flagUF ∈ roundingFlags := by decide
  by_cases zero : v.mag = 0 ∧ v.sticky = false
  · rw [Fmt.round_of_zero zero]
    exact inRange false false
  by_cases below : belowPow (v.quantize rm (F.lastPlace v)).1 (F.lastPlace v) (F.bias + 1) = true
  · rw [Fmt.round_of_below zero below]
    exact inRange _ _
  · rw [Fmt.round_of_not_below zero below]
    exact (by decide : flagOF ||| flagNX ∈ roundingFlags)

end Round

/-- Settles O49: both flags stand beside NX in every flag set of a rounding. -/
theorem underflowAndOverflowComeWithInexact : Obligations.UnderflowAndOverflowComeWithInexact := by
  intro F rm v zs
  have beside : ∀ f ∈ roundingFlags,
      (f &&& flagUF ≠ 0 → f &&& flagNX = flagNX) ∧ (f &&& flagOF ≠ 0 → f &&& flagNX = flagNX) := by decide
  exact beside _ (F.round_flags rm v zs)

end Sys2Proof.Machine
end

section
/-! `round` is the rounding of R265: what an `Exact` stands for, rounding to an integer, packing, and the rounding itself. -/

namespace Sys2Proof.Machine

-- ==== Rounding to an integer ====

section ToInteger

variable {K : Type} [Field K] [LinearOrder K] [IsStrictOrderedRing K]

/-- Whether the mode takes an integer `q` and a fraction `f` of the next unit up to `q + 1` (the direction table of R265). -/
def RMode.TakesUp (rm : RMode) (neg : Bool) (q : ℤ) (f : K) : Prop :=
  match rm with
  | .rne => 1 / 2 < f ∨ f = 1 / 2 ∧ q % 2 = 1
  | .rmm => 1 / 2 ≤ f
  | .rtz => False
  | .rdn => neg = true ∧ f ≠ 0
  | .rup => neg = false ∧ f ≠ 0

/-- A whole number is never taken up. -/
theorem RMode.not_takesUp_zero (rm : RMode) (neg : Bool) (q : ℤ) : ¬ rm.TakesUp neg q (0 : K) := by
  cases rm <;> simp [RMode.TakesUp]

section Remainder

variable {r half : ℕ} {δ : K} (positive : 0 < half) (nonneg : 0 ≤ δ) (small : δ < 1)
include positive nonneg

/-- A remainder and what lies below it are nothing only where both are. -/
theorem remainder_eq_zero_iff : (r + δ) / (2 * half : ℕ) = 0 ↔ r = 0 ∧ δ = 0 := by
  have unit : ((2 * half : ℕ) : K) ≠ 0 := by positivity
  rw [div_eq_zero_iff, or_iff_left unit, add_eq_zero_iff_of_nonneg (Nat.cast_nonneg r) nonneg, Nat.cast_eq_zero]

include small

/-- What lies below the remainder does not take it to half a unit. -/
theorem half_le_remainder_iff : 1 / 2 ≤ (r + δ) / (2 * half : ℕ) ↔ half ≤ r := by
  have unit : (0 : K) < (2 * half : ℕ) := by positivity
  have clear : 1 / 2 ≤ (r + δ) / (2 * half : ℕ) ↔ (half : K) ≤ r + δ := by
    rw [le_div_iff₀ unit]
    push_cast
    constructor <;> intro h <;> linarith
  rw [clear]
  refine ⟨fun h => ?_, fun h => ?_⟩
  · have : (half : K) < (r + 1 : ℕ) := by push_cast; linarith
    exact Nat.le_of_lt_succ (by exact_mod_cast this)
  · have : (half : K) ≤ r := by exact_mod_cast h
    linarith

/-- A tie is half the unit with nothing below it. -/
theorem remainder_eq_half_iff : (r + δ) / (2 * half : ℕ) = 1 / 2 ↔ r = half ∧ δ = 0 := by
  have unit : ((2 * half : ℕ) : K) ≠ 0 := by positivity
  constructor
  · intro tie
    have least : half ≤ r := (half_le_remainder_iff positive nonneg small).mp tie.ge
    have least' : (half : K) ≤ r := by exact_mod_cast least
    rw [div_eq_iff unit] at tie
    push_cast at tie
    have none : δ = 0 := by linarith
    have same : (r : K) = half := by linarith
    exact ⟨by exact_mod_cast same, none⟩
  · rintro ⟨rfl, rfl⟩
    rw [div_eq_iff unit]
    push_cast
    ring

/-- `roundsUp` decides the direction from the remainder `r` out of `2 × half` and what lies below it, the part `δ` of a unit
that is 0 exactly where nothing was cut off. -/
theorem roundsUp_iff_takesUp (rm : RMode) (neg : Bool) (q : ℕ) {sticky : Bool} (cut : sticky = true ↔ δ ≠ 0) :
    roundsUp rm neg q r half sticky = true ↔ rm.TakesUp neg q ((r + δ) / (2 * half : ℕ)) := by
  have isZero := remainder_eq_zero_iff (r := r) positive nonneg
  have isHalf := remainder_eq_half_iff (r := r) positive nonneg small
  have atLeastHalf := half_le_remainder_iff (r := r) positive nonneg small
  cases rm with
  | rne =>
    have aboveHalf : 1 / 2 < (r + δ) / (2 * half : ℕ) ↔ half ≤ r ∧ ¬ (r = half ∧ δ = 0) := by
      rw [lt_iff_le_and_ne, ne_comm, Ne, atLeastHalf, isHalf]
    have parity : (q : ℤ) % 2 = 1 ↔ q % 2 = 1 := by omega
    simp only [roundsUp, RMode.TakesUp, aboveHalf, isHalf, parity, Bool.or_eq_true, Bool.and_eq_true, decide_eq_true_eq, cut]
    rcases lt_trichotomy half r with above | rfl | below
    · simp [above, above.le, above.ne']
    · simp [or_and_left, em']
    · simp [below.not_gt, below.not_ge, below.ne]
  | rtz => simp [roundsUp, RMode.TakesUp]
  | rdn | rup =>
    simp only [roundsUp, RMode.TakesUp, Ne, isZero, Bool.or_eq_true, Bool.and_eq_true, decide_eq_true_eq, cut,
      Bool.not_eq_true', not_and_or]
  | rmm => simp only [roundsUp, RMode.TakesUp, atLeastHalf, decide_eq_true_eq]

end Remainder

variable [FloorRing K]

/-- Rounding to an integer takes the integer part or the next integer, as the direction table says. -/
theorem roundToInt_add (rm : RMode) (neg : Bool) (q : ℤ) {f : K} (nonneg : 0 ≤ f) (small : f < 1)
    [Decidable (rm.TakesUp neg q f)] : roundToInt rm neg (q + f) = if rm.TakesUp neg q f then q + 1 else q := by
  have floor : ⌊(q : K) + f⌋ = q := by
    rw [Int.floor_intCast_add, Int.floor_eq_zero_iff.mpr ⟨nonneg, small⟩, add_zero]
  have ceil : ⌈(q : K) + f⌉ = if f = 0 then q else q + 1 := by
    split_ifs with zero
    · rw [zero, add_zero, Int.ceil_intCast]
    · rw [Int.ceil_eq_iff]
      push_cast
      exact ⟨by linarith [nonneg.lt_of_ne' zero], by linarith⟩
  have nearest : ⌊(q : K) + f + 1 / 2⌋ = if 1 / 2 ≤ f then q + 1 else q := by
    split_ifs with up <;> rw [Int.floor_eq_iff] <;> push_cast <;> constructor <;> linarith
  cases rm with
  | rne =>
    have parity : q % 2 = 1 ↔ ¬ q % 2 = 0 := by omega
    simp only [roundToInt, RMode.TakesUp, floor, nearest, add_sub_cancel_left, parity]
    by_cases tie : f = 1 / 2
    · simp only [tie, lt_irrefl, true_and, false_or, if_true, ite_not]
    · have above : 1 / 2 ≤ f ↔ 1 / 2 < f := le_iff_lt_or_eq.trans (or_iff_left (Ne.symm tie))
      simp only [tie, above, false_and, or_false, if_false]
  | rtz => exact floor.trans (if_neg id).symm
  | rdn | rup => cases neg <;> simp [roundToInt, RMode.TakesUp, floor, ceil]
  | rmm => exact nearest.trans (if_congr Iff.rfl rfl rfl)

/-- Only a whole number is what it rounds to. -/
theorem roundToInt_add_eq_iff (rm : RMode) (neg : Bool) (q : ℤ) {f : K} (nonneg : 0 ≤ f) (small : f < 1) :
    (roundToInt rm neg (q + f) : K) = q + f ↔ f = 0 := by
  classical
  rw [roundToInt_add rm neg q nonneg small]
  split_ifs with up
  · push_cast
    exact iff_of_false (by linarith) (by rintro rfl; exact rm.not_takesUp_zero neg q up)
  · exact left_eq_add

/-- An integer rounds to itself. -/
theorem roundToInt_intCast (rm : RMode) (neg : Bool) (q : ℤ) : roundToInt rm neg (q : K) = q := by
  classical
  rw [← add_zero (q : K), roundToInt_add rm neg q le_rfl one_pos, if_neg (rm.not_takesUp_zero neg q)]

/-- Rounding to an integer does not go below an integer below. -/
theorem le_roundToInt (rm : RMode) (neg : Bool) {n : ℤ} {a : K} (h : n ≤ a) : n ≤ roundToInt rm neg a := by
  classical
  have floor : n ≤ ⌊a⌋ := Int.le_floor.mpr h
  rw [← Int.floor_add_fract a, roundToInt_add rm neg _ (Int.fract_nonneg a) (Int.fract_lt_one a)]
  split_ifs <;> omega

/-- Rounding to an integer does not go beyond an integer above. -/
theorem roundToInt_le (rm : RMode) (neg : Bool) {n : ℤ} {a : K} (h : a < n) : roundToInt rm neg a ≤ n := by
  classical
  have floor : ⌊a⌋ < n := Int.floor_lt.mpr h
  rw [← Int.floor_add_fract a, roundToInt_add rm neg _ (Int.fract_nonneg a) (Int.fract_lt_one a)]
  split_ifs <;> omega

end ToInteger

-- ==== What a number to round stands for ====

section StandsFor

variable {K : Type} [Field K] [LinearOrder K] {v : Exact} {p : ℕ} {a : K}

/-- A number that nothing was cut off stands for itself. -/
theorem Exact.standsFor_of_eq (whole : v.sticky = false) (h : a = (v.mag : K) * 2 ^ v.exp) : v.StandsFor p a := by
  rw [Exact.StandsFor, whole]
  exact h

/-- A number cut off after `p` bits stands for what it was cut from. -/
theorem Exact.standsFor_of_between (cut : v.sticky = true) (long : 2 ^ p ≤ v.mag) (above : (v.mag : K) * 2 ^ v.exp < a)
    (below : a < ((v.mag : K) + 1) * 2 ^ v.exp) : v.StandsFor p a := by
  rw [Exact.StandsFor, cut]
  exact ⟨long, above, below⟩

/-- A number that was cut off has at least `p` bits. -/
theorem Exact.StandsFor.two_pow_le_mag (h : v.StandsFor p a) (cut : v.sticky = true) : 2 ^ p ≤ v.mag := by
  rw [Exact.StandsFor, if_pos cut] at h
  exact h.1

variable [IsStrictOrderedRing K]

/-- What was cut off is a part `δ` of the unit, 0 exactly where the number is whole. -/
theorem Exact.StandsFor.exists_part (h : v.StandsFor p a) :
    ∃ δ : K, 0 ≤ δ ∧ δ < 1 ∧ (v.sticky = true ↔ δ ≠ 0) ∧ a = (v.mag + δ) * 2 ^ v.exp := by
  have unit : (0 : K) < 2 ^ v.exp := zpow_pos two_pos _
  cases cut : v.sticky with
  | false =>
    rw [Exact.StandsFor, cut] at h
    exact ⟨0, le_rfl, one_pos, by simp, by rw [add_zero]; exact h⟩
  | true =>
    rw [Exact.StandsFor, cut] at h
    obtain ⟨_, above, below⟩ := h
    have part : 0 < a / 2 ^ v.exp - v.mag := sub_pos.mpr ((lt_div_iff₀ unit).mpr above)
    refine ⟨a / 2 ^ v.exp - v.mag, part.le, ?_, by simp [part.ne'], ?_⟩
    · rw [sub_lt_iff_lt_add', div_lt_iff₀ unit]
      exact below
    · rw [add_sub_cancel, div_mul_cancel₀ _ unit.ne']

/-- A number whose sticky bit tells whether something was cut off, and of which enough bits are left if so. -/
theorem Exact.standsFor_of_part {δ : K} (nonneg : 0 ≤ δ) (small : δ < 1) (cut : v.sticky = true ↔ δ ≠ 0)
    (long : v.sticky = true → 2 ^ p ≤ v.mag) (value : a = (v.mag + δ) * 2 ^ v.exp) : v.StandsFor p a := by
  have unit : (0 : K) < 2 ^ v.exp := zpow_pos two_pos _
  subst value
  cases sticky : v.sticky with
  | false =>
    have none : δ = 0 := by simpa [sticky] using cut
    exact Exact.standsFor_of_eq sticky (by rw [none, add_zero])
  | true =>
    have part : 0 < δ := nonneg.lt_of_ne' (cut.mp sticky)
    exact Exact.standsFor_of_between sticky (long sticky) ((mul_lt_mul_iff_left₀ unit).mpr (by linarith))
      ((mul_lt_mul_iff_left₀ unit).mpr (by linarith))

/-- Only zero stands for 0. -/
theorem Exact.StandsFor.eq_zero_iff (h : v.StandsFor p a) : a = 0 ↔ v.mag = 0 ∧ v.sticky = false := by
  have unit : (2 : K) ^ v.exp ≠ 0 := zpow_ne_zero _ two_ne_zero
  obtain ⟨δ, nonneg, _, cut, rfl⟩ := h.exists_part
  rw [mul_eq_zero, or_iff_left unit, add_eq_zero_iff_of_nonneg (Nat.cast_nonneg _) nonneg, Nat.cast_eq_zero,
    ← Bool.not_eq_true, cut, not_not]

/-- The number's `log2` is that of what it stands for. -/
theorem Exact.StandsFor.log2_bounds (h : v.StandsFor p a) (nonzero : a ≠ 0) : 2 ^ v.log2 ≤ a ∧ a < 2 ^ (v.log2 + 1) := by
  have unit : (0 : K) < 2 ^ v.exp := zpow_pos two_pos _
  have mag : v.mag ≠ 0 := by
    cases cut : v.sticky with
    | false => exact fun none => nonzero (h.eq_zero_iff.mpr ⟨none, cut⟩)
    | true => exact ((Nat.two_pow_pos p).trans_le (h.two_pow_le_mag cut)).ne'
  obtain ⟨δ, nonneg, small, _, rfl⟩ := h.exists_part
  have low : (2 : K) ^ v.mag.log2 ≤ v.mag := by exact_mod_cast Nat.log2_self_le mag
  have high : (v.mag : K) + 1 ≤ 2 ^ (v.mag.log2 + 1) := by exact_mod_cast Nat.lt_log2_self (n := v.mag)
  rw [Exact.log2, add_assoc, zpow_add₀ two_ne_zero, zpow_add₀ two_ne_zero, mul_comm, mul_comm (2 ^ v.exp), zpow_natCast]
  refine ⟨(mul_le_mul_iff_left₀ unit).mpr (by linarith), (mul_lt_mul_iff_left₀ unit).mpr ?_⟩
  calc (v.mag : K) + δ < 2 ^ (v.mag.log2 + 1) := by linarith
    _ = 2 ^ ((v.mag.log2 : ℤ) + 1) := by norm_cast

end StandsFor

-- ==== The rounded quotient ====

section Quantize

/-- A unit no coarser than that of the number needs no rounding. -/
theorem Exact.quantize_of_le {v : Exact} {k : ℤ} (rm : RMode) (fine : k ≤ v.exp) :
    v.quantize rm k = (v.mag * 2 ^ (v.exp - k).toNat, v.sticky) := if_pos fine

/-- Beside a unit `n + 1` places above that of the number stand a quotient and a remainder out of `2 × 2^n`. -/
theorem Exact.quantize_add (v : Exact) (rm : RMode) (n : ℕ) :
    v.quantize rm (v.exp + (n + 1 : ℕ)) =
      (if roundsUp rm v.neg (v.mag / 2 ^ (n + 1)) (v.mag % 2 ^ (n + 1)) (2 ^ n) v.sticky then v.mag / 2 ^ (n + 1) + 1
        else v.mag / 2 ^ (n + 1), decide (v.mag % 2 ^ (n + 1) ≠ 0) || v.sticky) := by
  have shift : (v.exp + (n + 1 : ℕ) - v.exp).toNat = n + 1 := by omega
  rw [Exact.quantize, if_neg (by omega)]
  simp only [shift, Nat.add_sub_cancel]

variable {K : Type} [Field K] [LinearOrder K] [IsStrictOrderedRing K] [FloorRing K] {v : Exact} {p : ℕ} {a : K}

/-- In units above that of the number, `quantize` is the rounding of what it stands for, and tells whether they differ. -/
theorem Exact.StandsFor.quantize_add (h : v.StandsFor p a) (rm : RMode) (n : ℕ) :
    ((v.quantize rm (v.exp + (n + 1 : ℕ))).1 : ℤ) = roundToInt rm v.neg (a / 2 ^ (v.exp + (n + 1 : ℕ))) ∧
      ((v.quantize rm (v.exp + (n + 1 : ℕ))).2 = true ↔
        (roundToInt rm v.neg (a / 2 ^ (v.exp + (n + 1 : ℕ))) : K) ≠ a / 2 ^ (v.exp + (n + 1 : ℕ))) := by
  classical
  obtain ⟨δ, nonneg, small, cut, rfl⟩ := h.exists_part
  rw [v.quantize_add rm n]
  have fits : v.mag % 2 ^ (n + 1) < 2 * 2 ^ n := (Nat.mod_lt _ (Nat.two_pow_pos _)).trans_eq (pow_succ' 2 n)
  have parts : (v.mag : K) = (2 * 2 ^ n : ℕ) * (v.mag / 2 ^ (n + 1) : ℕ) + (v.mag % 2 ^ (n + 1) : ℕ) := by
    rw [← pow_succ']
    exact_mod_cast (Nat.div_add_mod v.mag (2 ^ (n + 1))).symm
  generalize v.mag / 2 ^ (n + 1) = q at parts ⊢
  generalize v.mag % 2 ^ (n + 1) = r at fits parts ⊢
  have value : (v.mag + δ) * 2 ^ v.exp / 2 ^ (v.exp + (n + 1 : ℕ)) = (q : ℤ) + (r + δ) / ((2 * 2 ^ n : ℕ) : K) := by
    have unit : (2 : K) ^ v.exp ≠ 0 := zpow_ne_zero _ two_ne_zero
    rw [zpow_add₀ two_ne_zero, mul_comm _ (2 ^ v.exp), mul_div_mul_left _ _ unit, zpow_natCast, parts]
    push_cast
    field_simp
    ring
  have direction := roundsUp_iff_takesUp (r := r) (Nat.two_pow_pos n) nonneg small rm v.neg q cut
  have whole := remainder_eq_zero_iff (r := r) (Nat.two_pow_pos n) nonneg
  have part_nonneg : 0 ≤ (r + δ) / ((2 * 2 ^ n : ℕ) : K) := by positivity
  have part_small : (r + δ) / ((2 * 2 ^ n : ℕ) : K) < 1 := by
    have : ((r + 1 : ℕ) : K) ≤ (2 * 2 ^ n : ℕ) := by exact_mod_cast fits
    rw [div_lt_one (by positivity)]
    push_cast at this ⊢
    linarith
  have exact := (roundToInt_add_eq_iff rm v.neg q part_nonneg part_small).trans whole
  rw [value]
  refine ⟨?rounded, Iff.trans ?inexact exact.not.symm⟩
  case rounded =>
    rw [roundToInt_add rm v.neg q part_nonneg part_small]
    simp only [direction]
    split_ifs <;> push_cast <;> rfl
  case inexact => simp [cut, ← not_and_or]

/-- In units that are no finer than those of a number that was cut off, `quantize` is the rounding of what it stands for, and
tells whether they differ. -/
theorem Exact.StandsFor.quantize (h : v.StandsFor p a) (rm : RMode) {k : ℤ} (coarse : v.sticky = true → v.exp < k) :
    ((v.quantize rm k).1 : ℤ) = roundToInt rm v.neg (a / 2 ^ k) ∧
      ((v.quantize rm k).2 = true ↔ (roundToInt rm v.neg (a / 2 ^ k) : K) ≠ a / 2 ^ k) := by
  rcases le_or_gt k v.exp with fine | above
  · have uncut : v.sticky = false := Bool.eq_false_iff.mpr fun cut => (coarse cut).not_ge fine
    have value : a / 2 ^ k = ((v.mag * 2 ^ (v.exp - k).toNat : ℕ) : ℤ) := by
      rw [Exact.StandsFor, uncut] at h
      rw [h, mul_div_assoc, ← zpow_sub₀ two_ne_zero, ← Int.toNat_of_nonneg (sub_nonneg.mpr fine), zpow_natCast]
      push_cast
      rfl
    rw [Exact.quantize_of_le rm fine, value, roundToInt_intCast, uncut]
    exact ⟨rfl, by simp⟩
  · obtain ⟨n, rfl⟩ : ∃ n : ℕ, k = v.exp + (n + 1 : ℕ) := ⟨(k - v.exp).toNat - 1, by omega⟩
    exact h.quantize_add rm n

end Quantize

-- ==== Patterns by their fields, and packing ====

section Pack

variable {F : Fmt}

/-- The pattern with a sign, an exponent field and a fraction field. -/
def Fmt.ofFields (F : Fmt) (neg : Bool) (E T : ℕ) : ℕ := F.signBit neg + E * 2 ^ F.fracBits + T

/-- The sign bit before the exponent field before the fraction field. -/
theorem Fmt.ofFields_eq (neg : Bool) (E T : ℕ) :
    F.ofFields neg E T = 2 ^ F.fracBits * (2 ^ F.expBits * neg.toNat + E) + T := by
  cases neg <;> simp [Fmt.ofFields, Fmt.signBit, pow_add] <;> ring

section Fields

variable (neg : Bool) {E T : ℕ} (hE : E < 2 ^ F.expBits) (hT : T < 2 ^ F.fracBits)
include hT

/-- The fraction field of a pattern made of fields. -/
theorem Fmt.fracField_ofFields : F.fracField (F.ofFields neg E T) = T := by
  rw [Fmt.fracField, Fmt.ofFields_eq, Nat.mul_add_mod, Nat.mod_eq_of_lt hT]

/-- Without its fraction field a pattern is its sign bit before its exponent field. -/
theorem Fmt.ofFields_div : F.ofFields neg E T / 2 ^ F.fracBits = 2 ^ F.expBits * neg.toNat + E := by
  rw [Fmt.ofFields_eq, Nat.mul_add_div (Nat.two_pow_pos _), Nat.div_eq_of_lt hT, add_zero]

include hE

/-- The exponent field of a pattern made of fields. -/
theorem Fmt.expField_ofFields : F.expField (F.ofFields neg E T) = E := by
  rw [Fmt.expField, Fmt.ofFields_div neg hT, Nat.mul_add_mod, Nat.mod_eq_of_lt hE]

/-- The sign of a pattern made of fields. -/
theorem Fmt.signField_ofFields : F.signField (F.ofFields neg E T) = neg := by
  rw [Fmt.signField, add_comm, pow_add, ← Nat.div_div_eq_div_mul, Fmt.ofFields_div neg hT,
    Nat.mul_add_div (Nat.two_pow_pos _), Nat.div_eq_of_lt hE]
  cases neg <;> rfl

/-- A pattern made of fields has the width of the format. -/
theorem Fmt.ofFields_lt : F.ofFields neg E T < 2 ^ (1 + F.expBits + F.fracBits) := by
  rw [pow_add, ← Nat.div_lt_iff_lt_mul (Nat.two_pow_pos _), Fmt.ofFields_div neg hT, pow_add]
  cases neg <;> simp <;> omega

end Fields

/-- The exponent bias is half the range of the exponent field, less one. -/
theorem Fmt.two_mul_bias (exponent : 0 < F.expBits) : 2 * (F.bias + 1) = (2 ^ F.expBits : ℕ) := by
  rw [Fmt.bias, sub_add_cancel, ← pow_succ', Nat.sub_add_cancel exponent]
  push_cast
  rfl

/-- A subnormal number or a zero, by its fields. -/
theorem Fmt.unpack_ofFields_zero (exponent : 0 < F.expBits) (neg : Bool) {T : ℕ} (hT : T < 2 ^ F.fracBits) :
    F.unpack (F.ofFields neg 0 T) = .fin neg T (F.emin - F.fracBits) := by
  have ones : 2 ≤ 2 ^ F.expBits := Nat.le_self_pow exponent.ne' 2
  have field := F.expField_ofFields neg (Nat.two_pow_pos _) hT
  rw [Fmt.unpack_eq_subnormal (by omega) field, Fmt.fracField_ofFields neg hT,
    Fmt.signField_ofFields neg (Nat.two_pow_pos _) hT]

/-- A normal number, by its fields. -/
theorem Fmt.unpack_ofFields_succ (neg : Bool) {E T : ℕ} (hE : E + 1 < 2 ^ F.expBits - 1) (hT : T < 2 ^ F.fracBits) :
    F.unpack (F.ofFields neg (E + 1) T) = .fin neg (2 ^ F.fracBits + T) (E + F.emin - F.fracBits) := by
  have hE' : E + 1 < 2 ^ F.expBits := by omega
  have field := F.expField_ofFields neg hE' hT
  rw [Fmt.unpack_eq_normal (by omega) (by omega), Fmt.fracField_ofFields neg hT, Fmt.signField_ofFields neg hE' hT, field,
    Fmt.emin]
  congr 1
  push_cast
  ring

variable {K : Type} [Field K] [LinearOrder K] [IsStrictOrderedRing K]

/-- `belowPow` compares with a power of two. -/
theorem belowPow_iff (q : ℕ) (k n : ℤ) : belowPow q k n = true ↔ (q : K) * 2 ^ k < 2 ^ n := by
  have unit : (0 : K) < 2 ^ k := zpow_pos two_pos _
  rw [belowPow]
  split_ifs with h
  · rw [decide_eq_true_iff]
    refine ⟨by rintro rfl; simpa using zpow_pos two_pos n, fun small => ?_⟩
    by_contra nonzero
    have least : (1 : K) ≤ q := by exact_mod_cast Nat.one_le_iff_ne_zero.mpr nonzero
    have coarse : (2 : K) ^ n ≤ 2 ^ k := zpow_le_zpow_right₀ one_le_two h
    nlinarith
  · have split : (2 : K) ^ n = 2 ^ (n - k).toNat * 2 ^ k := by
      rw [← zpow_natCast, Int.toNat_of_nonneg (by omega), ← zpow_add₀ two_ne_zero, sub_add_cancel]
    rw [decide_eq_true_iff, split, mul_lt_mul_iff_left₀ unit]
    norm_cast

/-- A packed magnitude is the pattern with the fields that its leading bits carry into. -/
theorem Fmt.pack_eq_ofFields (neg : Bool) {q j E T : ℕ} (carry : j * 2 ^ F.fracBits + q = E * 2 ^ F.fracBits + T) :
    F.pack neg q (F.emin - F.fracBits + j) = F.ofFields neg E T := by
  rw [Fmt.pack, Fmt.ofFields, add_sub_cancel_left, Int.toNat_natCast, add_assoc, carry, add_assoc]

/-- A magnitude of at least `2^i` units is below a power of two only where `2^i` units are. -/
theorem exponent_lt_of_below {q i : ℕ} {k n : ℤ} (large : 2 ^ i ≤ q) (below : (q : K) * 2 ^ k < 2 ^ n) : i + k < n := by
  have large' : (2 : K) ^ (i : ℤ) ≤ q := by exact_mod_cast large
  refine (zpow_lt_zpow_iff_right₀ (one_lt_two (α := K))).mp (lt_of_le_of_lt ?_ below)
  rw [zpow_add₀ two_ne_zero]
  gcongr

/-- A magnitude in units of its last place, of `p` bits or less or rounded up to the next power of two, is packed as a
pattern of the format that stands for it. -/
theorem Fmt.unpack_pack (exponent : 0 < F.expBits) (neg : Bool) {q : ℕ} {k : ℤ} (least : F.emin - F.fracBits ≤ k)
    (fits : q ≤ 2 ^ (F.fracBits + 1)) (normal : F.emin - F.fracBits < k → 2 ^ F.fracBits ≤ q)
    (below : (q : K) * 2 ^ k < 2 ^ (F.bias + 1)) :
    (∃ m e, F.unpack (F.pack neg q k) = .fin neg m e ∧ (m : K) * 2 ^ e = q * 2 ^ k) ∧
      F.pack neg q k < 2 ^ (1 + F.expBits + F.fracBits) := by
  obtain ⟨j, rfl⟩ : ∃ j : ℕ, k = F.emin - F.fracBits + j := ⟨(k - (F.emin - F.fracBits)).toNat, by omega⟩
  have bias := F.two_mul_bias exponent
  have emin : F.emin = 1 - F.bias := rfl
  have unit : 0 < 2 ^ F.fracBits := Nat.two_pow_pos _
  rcases lt_or_ge q (2 ^ F.fracBits) with subnormal | leading
  · obtain rfl : j = 0 := by_contra fun nonzero => (normal (by omega)).not_gt subnormal
    rw [Fmt.pack_eq_ofFields (E := 0) (T := q) neg rfl, Fmt.unpack_ofFields_zero exponent neg subnormal]
    exact ⟨⟨q, _, rfl, by rw [Nat.cast_zero, add_zero]⟩, Fmt.ofFields_lt neg (Nat.two_pow_pos _) subnormal⟩
  rcases fits.lt_or_eq with short | rfl
  · obtain ⟨T, rfl⟩ := Nat.exists_eq_add_of_le leading
    have range := exponent_lt_of_below leading below
    have hT : T < 2 ^ F.fracBits := by omega
    have hE : j + 1 < 2 ^ F.expBits - 1 := by omega
    rw [Fmt.pack_eq_ofFields (E := j + 1) (T := T) neg (by ring), Fmt.unpack_ofFields_succ neg hE hT]
    exact ⟨⟨_, _, rfl, by congr 2; ring⟩, Fmt.ofFields_lt neg (by omega) hT⟩
  · have range := exponent_lt_of_below le_rfl below
    have hE : j + 1 + 1 < 2 ^ F.expBits - 1 := by omega
    rw [Fmt.pack_eq_ofFields (E := j + 1 + 1) (T := 0) neg (by ring), Fmt.unpack_ofFields_succ neg hE unit]
    refine ⟨⟨_, _, rfl, ?_⟩, Fmt.ofFields_lt neg (by omega) unit⟩
    have next : ((j + 1 : ℕ) : ℤ) + F.emin - F.fracBits = F.emin - F.fracBits + j + 1 := by push_cast; ring
    rw [next, zpow_add_one₀ two_ne_zero]
    push_cast
    ring

end Pack

-- ==== `round` ====

section Round

variable {F : Fmt} {K : Type} [Field K] [LinearOrder K] [IsStrictOrderedRing K] [FloorRing K] {v : Exact} {a : K}

/-- The power of two at or below a positive number is unique. -/
theorem exponent_unique {e e' : ℤ} (low : (2 : K) ^ e ≤ a) (high : a < 2 ^ (e + 1)) (low' : (2 : K) ^ e' ≤ a)
    (high' : a < 2 ^ (e' + 1)) : e = e' := by
  have le := (zpow_lt_zpow_iff_right₀ (one_lt_two (α := K))).mp (low.trans_lt high')
  have ge := (zpow_lt_zpow_iff_right₀ (one_lt_two (α := K))).mp (low'.trans_lt high)
  omega

/-- The modes that take an overflow of a sign to infinity (R265). -/
theorem overflowsToInf_iff (rm : RMode) (neg : Bool) :
    overflowsToInf rm neg = true ↔
      rm = .rne ∨ rm = .rmm ∨ (rm = .rdn ∧ neg = true) ∨ (rm = .rup ∧ neg = false) := by
  cases rm <;> simp [overflowsToInf]

/-- The exponent of the last place, written as in R265. -/
theorem Fmt.sub_prec_add_one (F : Fmt) (e : ℤ) : e - F.prec + 1 = e - F.fracBits := by
  rw [Fmt.prec]
  push_cast
  ring

/-- Rounding to `p` bits or fewer is `roundAt`, and `quantize` tells whether it is exact. -/
theorem Exact.StandsFor.quantize_roundAt (h : v.StandsFor F.prec a) (rm : RMode) {e : ℤ} (place : v.log2 ≤ e) :
    ((v.quantize rm (e - F.fracBits)).1 : K) * 2 ^ (e - F.fracBits) = F.roundAt rm v.neg a e ∧
      ((v.quantize rm (e - F.fracBits)).2 = true ↔ F.roundAt rm v.neg a e ≠ a) := by
  have unit : (2 : K) ^ (e - F.fracBits) ≠ 0 := zpow_ne_zero _ two_ne_zero
  have coarse : v.sticky = true → v.exp < e - F.fracBits := by
    intro cut
    have long := h.two_pow_le_mag cut
    have bits := (Nat.le_log2 ((Nat.two_pow_pos _).trans_le long).ne').mpr long
    rw [Fmt.prec] at bits
    rw [Exact.log2] at place
    omega
  obtain ⟨value, inexact⟩ := h.quantize rm coarse
  rw [Fmt.roundAt, F.sub_prec_add_one, ← Int.cast_natCast, value, inexact, Ne, eq_div_iff unit]
  exact ⟨rfl, Iff.rfl⟩

/-- Rounding does not go beyond the next power of two. -/
theorem Fmt.roundAt_le (rm : RMode) (neg : Bool) {e : ℤ} (high : a < 2 ^ (e + 1)) : F.roundAt rm neg a e ≤ 2 ^ (e + 1) := by
  have unit : (0 : K) < 2 ^ (e - F.fracBits) := zpow_pos two_pos _
  have split : (2 : K) ^ (e + 1) = ((2 ^ (F.fracBits + 1) : ℤ) : K) * 2 ^ (e - F.fracBits) := by
    push_cast
    rw [← zpow_natCast, ← zpow_add₀ two_ne_zero]
    congr 1
    push_cast
    ring
  rw [Fmt.roundAt, F.sub_prec_add_one, split, mul_le_mul_iff_left₀ unit, Int.cast_le]
  refine roundToInt_le rm neg ?_
  rwa [div_lt_iff₀ unit, ← split]

/-- Rounding does not go below the power of two below. -/
theorem Fmt.le_roundAt (rm : RMode) (neg : Bool) {e : ℤ} (low : 2 ^ e ≤ a) : 2 ^ e ≤ F.roundAt rm neg a e := by
  have unit : (0 : K) < 2 ^ (e - F.fracBits) := zpow_pos two_pos _
  have split : (2 : K) ^ e = ((2 ^ F.fracBits : ℤ) : K) * 2 ^ (e - F.fracBits) := by
    push_cast
    rw [← zpow_natCast, ← zpow_add₀ two_ne_zero, add_sub_cancel]
  rw [Fmt.roundAt, F.sub_prec_add_one, split, mul_le_mul_iff_left₀ unit, Int.cast_le]
  refine le_roundToInt rm neg ?_
  rwa [le_div_iff₀ unit, ← split]

/-- Up to `2^n` units of `2^k`. -/
theorem units_le_iff {q n : ℕ} {k : ℤ} : (q : K) * 2 ^ k ≤ 2 ^ (n + k) ↔ q ≤ 2 ^ n := by
  rw [zpow_add₀ two_ne_zero, mul_le_mul_iff_left₀ (zpow_pos two_pos _), zpow_natCast]
  norm_cast

/-- From `2^n` units of `2^k` on. -/
theorem le_units_iff {q n : ℕ} {k : ℤ} : 2 ^ (n + k) ≤ (q : K) * 2 ^ k ↔ 2 ^ n ≤ q := by
  rw [zpow_add₀ two_ne_zero, mul_le_mul_iff_left₀ (zpow_pos two_pos _), zpow_natCast]
  norm_cast

/-- In units of its last place a rounded magnitude has at most `p` bits, or is the next power of two. -/
theorem Exact.StandsFor.quotient_le (h : v.StandsFor F.prec a) (nonzero : a ≠ 0) (rm : RMode) :
    (v.quantize rm (F.lastPlace v)).1 ≤ 2 ^ (F.fracBits + 1) := by
  obtain ⟨_, high⟩ := h.log2_bounds nonzero
  obtain ⟨value, _⟩ := h.quantize_roundAt rm (le_max_left v.log2 F.emin)
  have next : ((F.fracBits + 1 : ℕ) : ℤ) + F.lastPlace v = max v.log2 F.emin + 1 := by
    rw [Fmt.lastPlace]
    push_cast
    ring
  refine (units_le_iff (K := K) (k := F.lastPlace v)).mp (value.trans_le ?_)
  rw [next]
  exact Fmt.roundAt_le rm v.neg (high.trans_le (zpow_le_zpow_right₀ one_le_two (by omega)))

/-- In units of a last place above that of the subnormals a rounded magnitude has its leading bit. -/
theorem Exact.StandsFor.le_quotient (h : v.StandsFor F.prec a) (nonzero : a ≠ 0) (rm : RMode)
    (above : F.emin - F.fracBits < F.lastPlace v) : 2 ^ F.fracBits ≤ (v.quantize rm (F.lastPlace v)).1 := by
  obtain ⟨low, _⟩ := h.log2_bounds nonzero
  obtain ⟨value, _⟩ := h.quantize_roundAt rm (le_max_left v.log2 F.emin)
  have leading : max v.log2 F.emin = v.log2 := by rw [Fmt.lastPlace] at above; omega
  refine (le_units_iff (K := K) (k := F.lastPlace v)).mp (value.trans_ge ?_)
  rw [Fmt.lastPlace, leading, add_sub_cancel]
  exact Fmt.le_roundAt rm v.neg low

/-- `round` is the rounding of R265 of what its argument stands for. -/
theorem Fmt.round_isRounding (exponent : 0 < F.expBits) (h : v.StandsFor F.prec a) (nonzero : a ≠ 0) (rm : RMode)
    (zs : Bool) : F.IsRounding rm v.neg a (F.round rm v zs) := by
  intro e₀ low high
  obtain ⟨low', high'⟩ := h.log2_bounds nonzero
  obtain rfl : e₀ = v.log2 := exponent_unique low high low' high'
  obtain ⟨value, inexact⟩ := h.quantize_roundAt rm (le_max_left v.log2 F.emin)
  obtain ⟨unbounded, _⟩ := h.quantize_roundAt rm le_rfl
  have notZero : ¬ (v.mag = 0 ∧ v.sticky = false) := h.eq_zero_iff.not.mp nonzero
  have range := belowPow_iff (K := K) (v.quantize rm (F.lastPlace v)).1 (F.lastPlace v) (F.bias + 1)
  have tiny := belowPow_iff (K := K) (v.quantize rm (v.log2 - F.fracBits)).1 (v.log2 - F.fracBits) F.emin
  rw [← Fmt.lastPlace] at value inexact
  rw [value] at range
  rw [unbounded] at tiny
  refine ⟨fun beyond => ?_, fun below => ?_⟩
  · rw [Fmt.round_of_not_below notZero (range.not.mpr beyond.not_gt)]
    exact ⟨rfl, if_congr (overflowsToInf_iff rm v.neg) rfl rfl⟩
  · rw [Fmt.round_of_below notZero (range.mpr below)]
    obtain ⟨⟨m, e, unpacked, same⟩, width⟩ := Fmt.unpack_pack (K := K) exponent v.neg
      (sub_le_sub_right (le_max_right v.log2 F.emin) _) (h.quotient_le nonzero rm) (h.le_quotient nonzero rm) (value ▸ below)
    refine ⟨⟨m, e, unpacked, same.trans value⟩, width, ?_⟩
    rw [Bool.eq_iff_iff.mpr (inexact.trans decide_eq_true_iff.symm),
      Bool.eq_iff_iff.mpr (tiny.trans decide_eq_true_iff.symm)]

/-- Every positive number is stood for by itself, or by what is left when it is cut off after `p` bits. -/
theorem Exact.exists_standsFor (p : ℕ) (neg : Bool) {a : K} (positive : 0 < a) :
    ∃ v : Exact, v.neg = neg ∧ v.StandsFor p a := by
  obtain ⟨e, low⟩ : ∃ e : ℤ, (2 : K) ^ e ≤ a := ⟨Int.log 2 a, by exact_mod_cast Int.zpow_log_le_self one_lt_two positive⟩
  have unit : (0 : K) < 2 ^ (e - p) := zpow_pos two_pos _
  have ratio : (2 : K) ^ p ≤ a / 2 ^ (e - p) := by
    rw [le_div_iff₀ unit, ← zpow_natCast, ← zpow_add₀ two_ne_zero, add_sub_cancel]
    exact low
  have floor := Nat.floor_le ((pow_nonneg zero_le_two p).trans ratio)
  have next := Nat.lt_floor_add_one (a / 2 ^ (e - p))
  refine ⟨⟨neg, ⌊a / 2 ^ (e - p)⌋₊, e - p, decide (a / 2 ^ (e - p) - ⌊a / 2 ^ (e - p)⌋₊ ≠ 0)⟩, rfl,
    Exact.standsFor_of_part (sub_nonneg.mpr floor) (sub_lt_iff_lt_add'.mpr next) decide_eq_true_iff (fun _ => ?_) ?_⟩
  · exact Nat.le_floor (by exact_mod_cast ratio)
  · rw [add_sub_cancel, div_mul_cancel₀ _ unit.ne']

end Round

/-- Both formats have an exponent field. -/
theorem Fmt.expBits_pos {F : Fmt} (standard : F ∈ [single, double]) : 0 < F.expBits := by
  revert F
  decide

/-- Settles O48: what a positive number leaves when it is cut off stands for it, and `round` rounds what its argument stands
for. -/
theorem roundIsTheSpecsRounding : Obligations.RoundIsTheSpecsRounding := by
  intro F standard
  refine ⟨fun neg a positive => Exact.exists_standsFor F.prec neg positive, fun K _ _ _ _ rm v zs a stands => ⟨?_, ?_⟩⟩
  · exact fun zero => Fmt.round_of_zero (stands.eq_zero_iff.mp zero)
  · exact fun nonzero => Fmt.round_isRounding (Fmt.expBits_pos standard) stands nonzero rm zs

end Sys2Proof.Machine
end

section
/-! The exact results that the operations round: values as rational numbers, the signs of exact zeros (R261, R262, R266 to
R271, R276 to R283). -/

namespace Sys2Proof.Machine

-- ==== Finite values ====

section Finite

variable {F : Fmt} {a : ℕ}

/-- A finite value is a signed magnitude. -/
theorem FpVal.IsFinite.exists_fin {v : FpVal} (h : v.IsFinite) : ∃ n m e, v = .fin n m e := by
  cases v with
  | nan | inf => exact h.elim
  | fin n m e => exact ⟨n, m, e, rfl⟩

/-- Negation leaves a finite value finite. -/
theorem FpVal.IsFinite.negate {v : FpVal} (h : v.IsFinite) : v.negate.IsFinite := by
  obtain ⟨n, m, e, rfl⟩ := h.exists_fin
  trivial

/-- What a finite pattern is: subnormal (or a zero) or normal, with the sign of its sign field (R225). -/
theorem Fmt.unpack_fin_cases {n : Bool} {m : ℕ} {e : ℤ} (h : F.unpack a = .fin n m e) :
    n = F.signField a ∧ F.expField a ≠ 2 ^ F.expBits - 1 ∧
      (F.expField a = 0 ∧ m = F.fracField a ∧ e = F.emin - F.fracBits ∨
        F.expField a ≠ 0 ∧ m = 2 ^ F.fracBits + F.fracField a ∧ e = F.expField a - F.bias - F.fracBits) := by
  by_cases ones : F.expField a = 2 ^ F.expBits - 1
  · by_cases zero : F.fracField a = 0
    · rw [Fmt.unpack_eq_inf ones zero] at h
      cases h
    · rw [Fmt.unpack_eq_nan ones zero] at h
      cases h
  · by_cases zero : F.expField a = 0
    · rw [Fmt.unpack_eq_subnormal ones zero] at h
      cases h
      exact ⟨rfl, ones, .inl ⟨zero, rfl, rfl⟩⟩
    · rw [Fmt.unpack_eq_normal ones zero] at h
      cases h
      exact ⟨rfl, ones, .inr ⟨zero, rfl, rfl⟩⟩

/-- A finite pattern has the sign of its sign field. -/
theorem Fmt.unpack_of_isFinite (h : (F.unpack a).IsFinite) : ∃ m e, F.unpack a = .fin (F.signField a) m e := by
  obtain ⟨n, m, e, ua⟩ := h.exists_fin
  obtain ⟨rfl, _⟩ := Fmt.unpack_fin_cases ua
  exact ⟨m, e, ua⟩

/-- An infinite pattern has the sign of its sign field. -/
theorem Fmt.signField_of_unpack_eq_inf {n : Bool} (h : F.unpack a = .inf n) : F.signField a = n := by
  by_cases ones : F.expField a = 2 ^ F.expBits - 1
  · by_cases zero : F.fracField a = 0
    · rw [Fmt.unpack_eq_inf ones zero] at h
      exact FpVal.inf.inj h
    · rw [Fmt.unpack_eq_nan ones zero] at h
      cases h
  · by_cases zero : F.expField a = 0
    · rw [Fmt.unpack_eq_subnormal ones zero] at h
      cases h
    · rw [Fmt.unpack_eq_normal ones zero] at h
      cases h

/-- A finite value that is not 0 has the sign of its number. -/
theorem FpVal.decide_toRat_neg {n : Bool} {m : ℕ} {e : ℤ} (nonzero : (FpVal.fin n m e).toRat ≠ 0) :
    decide ((FpVal.fin n m e).toRat < 0) = n := by
  have positive : (0 : ℚ) < m * 2 ^ e := by
    have : m ≠ 0 := (FpVal.toRat_fin_eq_zero_iff n m e).not.mp nonzero
    positivity
  cases n <;> simp [FpVal.toRat, positive, positive.le.not_gt]

/-- The magnitude of a finite value. -/
theorem FpVal.abs_toRat (n : Bool) (m : ℕ) (e : ℤ) : |(FpVal.fin n m e).toRat| = m * 2 ^ e := by
  cases n <;> simp [FpVal.toRat, abs_mul, abs_zpow]

/-- The product of two magnitudes, with the exclusive or of the signs, is the product of the numbers. -/
theorem FpVal.toRat_mul (n₁ : Bool) (m₁ : ℕ) (e₁ : ℤ) (n₂ : Bool) (m₂ : ℕ) (e₂ : ℤ) :
    (FpVal.fin (n₁ != n₂) (m₁ * m₂) (e₁ + e₂)).toRat = (FpVal.fin n₁ m₁ e₁).toRat * (FpVal.fin n₂ m₂ e₂).toRat := by
  have split : (2 : ℚ) ^ (e₁ + e₂) = 2 ^ e₁ * 2 ^ e₂ := zpow_add₀ two_ne_zero _ _
  cases n₁ <;> cases n₂ <;> simp [FpVal.toRat, split] <;> ring

end Finite

-- ==== Rounding a rational number ====

section RoundRat

variable {F : Fmt} {rm : RMode} {zs : Bool}

/-- A finite value that is not 0 is rounded as its number. -/
theorem Fmt.round_fin_isRounding (exponent : 0 < F.expBits) {n : Bool} {m : ℕ} {e : ℤ}
    (nonzero : (FpVal.fin n m e).toRat ≠ 0) :
    F.IsRounding rm (decide ((FpVal.fin n m e).toRat < 0)) |(FpVal.fin n m e).toRat| (F.round rm ⟨n, m, e, false⟩ zs) := by
  rw [FpVal.decide_toRat_neg nonzero]
  have itself : Exact.StandsFor ⟨n, m, e, false⟩ F.prec |(FpVal.fin n m e).toRat| :=
    Exact.standsFor_of_eq rfl (FpVal.abs_toRat n m e)
  exact Fmt.round_isRounding exponent itself (abs_ne_zero.mpr nonzero) rm zs

/-- An integer in units of a power of two, as a finite value. -/
theorem exactOfInt_toRat (i k : ℤ) : (FpVal.fin (decide (i < 0)) i.natAbs k).toRat = i * 2 ^ k := by
  rcases lt_or_ge i 0 with negative | nonneg
  · have magnitude : ((i.natAbs : ℕ) : ℚ) = -i := by rw [Nat.cast_natAbs, abs_of_neg negative, Int.cast_neg]
    simp [FpVal.toRat, negative, magnitude]
  · have magnitude : ((i.natAbs : ℕ) : ℚ) = i := by rw [Nat.cast_natAbs, abs_of_nonneg nonneg]
    simp [FpVal.toRat, nonneg.not_gt, magnitude]

/-- An integer in units of a power of two is rounded as its number. -/
theorem Fmt.round_exactOfInt_isRounding (exponent : 0 < F.expBits) {i k : ℤ} {x : ℚ} (value : (i : ℚ) * 2 ^ k = x)
    (nonzero : x ≠ 0) : F.IsRounding rm (decide (x < 0)) |x| (F.round rm (exactOfInt i k) zs) := by
  rw [← exactOfInt_toRat] at value
  subst value
  exact Fmt.round_fin_isRounding exponent nonzero

/-- The integer 0 is rounded to a zero of the caller's sign. -/
theorem Fmt.round_exactOfInt_zero {i k : ℤ} (value : (i : ℚ) * 2 ^ k = 0) :
    F.round rm (exactOfInt i k) zs = ⟨F.zero zs, 0⟩ := by
  have none : i = 0 := by simpa [zpow_ne_zero] using value
  exact Fmt.round_of_zero ⟨by simp [exactOfInt, none], rfl⟩

/-- The sum of two finite values is their exact sum rounded. -/
theorem Fmt.addVal_isRounding (exponent : 0 < F.expBits) {u v : FpVal} (hu : u.IsFinite) (hv : v.IsFinite)
    (nonzero : u.toRat + v.toRat ≠ 0) :
    F.IsRounding rm (decide (u.toRat + v.toRat < 0)) |u.toRat + v.toRat| (F.addVal rm u v) := by
  obtain ⟨n₁, m₁, e₁, rfl⟩ := hu.exists_fin
  obtain ⟨n₂, m₂, e₂, rfl⟩ := hv.exists_fin
  exact Fmt.round_exactOfInt_isRounding exponent (exactSum_eq_add n₁ m₁ e₁ n₂ m₂ e₂) nonzero

/-- A sum that is 0 has the sign of R261. -/
theorem Fmt.addVal_zero {n₁ n₂ : Bool} {m₁ m₂ : ℕ} {e₁ e₂ : ℤ}
    (zero : (FpVal.fin n₁ m₁ e₁).toRat + (FpVal.fin n₂ m₂ e₂).toRat = 0) :
    F.addVal rm (.fin n₁ m₁ e₁) (.fin n₂ m₂ e₂) = ⟨F.zero (zeroSumSign rm n₁ n₂), 0⟩ :=
  Fmt.round_exactOfInt_zero ((exactSum_eq_add n₁ m₁ e₁ n₂ m₂ e₂).trans zero)

/-- The product of two finite values is their exact product rounded. -/
theorem Fmt.mulVal_isRounding (exponent : 0 < F.expBits) {u v : FpVal} (hu : u.IsFinite) (hv : v.IsFinite)
    (nonzero : u.toRat * v.toRat ≠ 0) :
    F.IsRounding rm (decide (u.toRat * v.toRat < 0)) |u.toRat * v.toRat| (F.mulVal rm u v) := by
  obtain ⟨n₁, m₁, e₁, rfl⟩ := hu.exists_fin
  obtain ⟨n₂, m₂, e₂, rfl⟩ := hv.exists_fin
  rw [← FpVal.toRat_mul] at nonzero ⊢
  exact Fmt.round_fin_isRounding exponent nonzero

/-- The product of a fused operation of finite values as one finite value, its sign inverted where `negp` is set (R262). -/
theorem FpVal.toRat_fusedProduct (negp n₁ : Bool) (m₁ : ℕ) (e₁ : ℤ) (n₂ : Bool) (m₂ : ℕ) (e₂ : ℤ) :
    (FpVal.fin ((n₁ != n₂) != negp) (m₁ * m₂) (e₁ + e₂)).toRat =
      (if negp then -1 else 1) * (FpVal.fin n₁ m₁ e₁).toRat * (FpVal.fin n₂ m₂ e₂).toRat := by
  cases negp with
  | false => simpa using FpVal.toRat_mul n₁ m₁ e₁ n₂ m₂ e₂
  | true =>
    have inverted : FpVal.fin ((n₁ != n₂) != true) (m₁ * m₂) (e₁ + e₂) =
        (FpVal.fin (n₁ != n₂) (m₁ * m₂) (e₁ + e₂)).negate := by
      simp [FpVal.negate]
    rw [inverted, FpVal.toRat_negate, FpVal.toRat_mul]
    simp

/-- A fused operation on finite values is the sum of its product and its addend. -/
theorem Fmt.fusedVal_fin (negp n₁ : Bool) (m₁ : ℕ) (e₁ : ℤ) (n₂ : Bool) (m₂ : ℕ) (e₂ : ℤ) (n₃ : Bool) (m₃ : ℕ) (e₃ : ℤ) :
    F.fusedVal rm negp (.fin n₁ m₁ e₁) (.fin n₂ m₂ e₂) (.fin n₃ m₃ e₃) =
      F.addVal rm (.fin ((n₁ != n₂) != negp) (m₁ * m₂) (e₁ + e₂)) (.fin n₃ m₃ e₃) := rfl

/-- The addend of a fused operation, its sign inverted where `negc` is set (R262). -/
theorem FpVal.toRat_addend (negc : Bool) (v : FpVal) :
    (if negc then v.negate else v).toRat = (if negc then -1 else 1) * v.toRat := by
  cases negc <;> simp [FpVal.toRat_negate]

/-- A product that is 0 has the exclusive or of the signs. -/
theorem Fmt.mulVal_zero {n₁ n₂ : Bool} {m₁ m₂ : ℕ} {e₁ e₂ : ℤ}
    (zero : (FpVal.fin n₁ m₁ e₁).toRat * (FpVal.fin n₂ m₂ e₂).toRat = 0) :
    F.mulVal rm (.fin n₁ m₁ e₁) (.fin n₂ m₂ e₂) = ⟨F.zero (n₁ != n₂), 0⟩ := by
  rw [← FpVal.toRat_mul, FpVal.toRat_fin_eq_zero_iff] at zero
  exact Fmt.round_of_zero ⟨zero, rfl⟩

/-- 0 over another number is a zero with the exclusive or of the signs. -/
theorem Fmt.divVal_zero {n₁ n₂ : Bool} {m₁ m₂ : ℕ} {e₁ e₂ : ℤ} (zero : (FpVal.fin n₁ m₁ e₁).toRat = 0)
    (nonzero : (FpVal.fin n₂ m₂ e₂).toRat ≠ 0) :
    F.divVal rm (.fin n₁ m₁ e₁) (.fin n₂ m₂ e₂) = ⟨F.zero (n₁ != n₂), 0⟩ := by
  rw [FpVal.toRat_fin_eq_zero_iff] at zero
  rw [Ne, FpVal.toRat_fin_eq_zero_iff] at nonzero
  rw [Fmt.divVal, if_neg nonzero, if_pos zero]

end RoundRat

-- ==== The operations on patterns ====

/-- Settles O50: each is a sum or a product of finite values; the fused operation is a sum of its product and its addend. -/
theorem arithmeticRoundsTheExactResult : Obligations.ArithmeticRoundsTheExactResult := by
  intro F standard rm a b c np nc ha hb hc x y z f
  have exponent := Fmt.expBits_pos standard
  refine ⟨Fmt.addVal_isRounding exponent ha hb, fun nonzero => ?sub, Fmt.mulVal_isRounding exponent ha hb,
    fun nonzero => ?fused⟩
  case sub =>
    have difference : x - y = (F.unpack a).toRat + (F.unpack b).negate.toRat := by
      rw [FpVal.toRat_negate, ← sub_eq_add_neg]
    rw [difference] at nonzero ⊢
    exact Fmt.addVal_isRounding exponent ha hb.negate nonzero
  case fused =>
    obtain ⟨m₁, e₁, ua⟩ := Fmt.unpack_of_isFinite ha
    obtain ⟨m₂, e₂, ub⟩ := Fmt.unpack_of_isFinite hb
    have addend : (if nc then (F.unpack c).negate else F.unpack c).IsFinite := by
      cases nc with
      | false => exact hc
      | true => exact hc.negate
    obtain ⟨n₃, m₃, e₃, uc⟩ := addend.exists_fin
    have total : f = (FpVal.fin ((F.signField a != F.signField b) != np) (m₁ * m₂) (e₁ + e₂)).toRat +
        (FpVal.fin n₃ m₃ e₃).toRat := by
      rw [FpVal.toRat_fusedProduct, ← ua, ← ub, ← uc, FpVal.toRat_addend]
    rw [total] at nonzero ⊢
    rw [Fmt.fused, ua, ub, uc, Fmt.fusedVal_fin]
    exact Fmt.addVal_isRounding exponent trivial trivial nonzero

/-- Settles O51: the operands are signed magnitudes with the signs of their patterns. -/
theorem exactZeroResultsHaveTheRulesSign : Obligations.ExactZeroResultsHaveTheRulesSign := by
  intro F standard rm a b c np nc ha hb hc x y z f s t sum
  obtain ⟨m₁, e₁, ua⟩ := Fmt.unpack_of_isFinite ha
  obtain ⟨m₂, e₂, ub⟩ := Fmt.unpack_of_isFinite hb
  obtain ⟨m₃, e₃, uc⟩ := Fmt.unpack_of_isFinite hc
  have hx : x = (FpVal.fin s m₁ e₁).toRat := congrArg FpVal.toRat ua
  have hy : y = (FpVal.fin t m₂ e₂).toRat := congrArg FpVal.toRat ub
  refine ⟨fun zero => ?add, fun zero => ?sub, fun zero => ?mul, fun zero nonzero => ?div, fun zero => ?fused⟩
  case add =>
    rw [hx, hy] at zero
    rw [Fmt.add, ua, ub, Fmt.addVal_zero zero]
    rfl
  case sub =>
    rw [hx, hy, sub_eq_add_neg, ← FpVal.toRat_negate] at zero
    rw [Fmt.sub, ua, ub]
    exact Fmt.addVal_zero zero
  case mul =>
    rw [hx, hy] at zero
    rw [Fmt.mul, ua, ub, Fmt.mulVal_zero zero]
  case div =>
    rw [hx] at zero
    rw [hy] at nonzero
    rw [Fmt.div, ua, ub, Fmt.divVal_zero zero nonzero]
  case fused =>
    have addend : (if nc then (F.unpack c).negate else F.unpack c) = .fin (F.signField c != nc) m₃ e₃ := by
      rw [uc]
      cases nc <;> simp [FpVal.negate]
    have total : f = (FpVal.fin ((s != t) != np) (m₁ * m₂) (e₁ + e₂)).toRat +
        (FpVal.fin (F.signField c != nc) m₃ e₃).toRat := by
      rw [FpVal.toRat_fusedProduct, ← hx, ← hy, ← addend, FpVal.toRat_addend]
    rw [total] at zero
    rw [Fmt.fused, ua, ub, addend, Fmt.fusedVal_fin]
    exact Fmt.addVal_zero zero

end Sys2Proof.Machine
end

section
/-! Quotients and square roots: what is cut off after enough bits still stands for the exact number (R272 to R275, log
entry 14). -/

namespace Sys2Proof.Machine

-- ==== Division ====

section Division

variable {F : Fmt}

/-- A finite pattern has at most `p` bits. -/
theorem Fmt.unpack_mag_lt {a : ℕ} {n : Bool} {m : ℕ} {e : ℤ} (h : F.unpack a = .fin n m e) : m < 2 ^ F.prec := by
  have fits := F.fracField_lt a
  obtain ⟨_, _, ⟨_, mag, _⟩ | ⟨_, mag, _⟩⟩ := Fmt.unpack_fin_cases h <;> rw [Fmt.prec, pow_succ] <;> omega

/-- The quotient that was cut off stands for the exact one. -/
theorem Fmt.quotient_standsFor (neg : Bool) {m₁ m₂ : ℕ} (e₁ e₂ : ℤ) (nonzero₁ : m₁ ≠ 0) (nonzero₂ : m₂ ≠ 0)
    (short : m₂ < 2 ^ F.prec) :
    (F.quotient neg m₁ e₁ m₂ e₂).StandsFor F.prec ((m₁ * 2 ^ e₁) / (m₂ * 2 ^ e₂) : ℚ) := by
  have divisor : (m₂ : ℚ) ≠ 0 := Nat.cast_ne_zero.mpr nonzero₂
  have parts : (m₁ : ℚ) * 2 ^ (2 * F.prec + 3) =
      m₂ * (m₁ * 2 ^ (2 * F.prec + 3) / m₂ : ℕ) + (m₁ * 2 ^ (2 * F.prec + 3) % m₂ : ℕ) := by
    exact_mod_cast (Nat.div_add_mod (m₁ * 2 ^ (2 * F.prec + 3)) m₂).symm
  have rest : m₁ * 2 ^ (2 * F.prec + 3) % m₂ < m₂ := Nat.mod_lt _ (Nat.pos_of_ne_zero nonzero₂)
  refine Exact.standsFor_of_part (δ := (m₁ * 2 ^ (2 * F.prec + 3) % m₂ : ℕ) / (m₂ : ℚ)) (by positivity) ?small ?cut
    (fun _ => ?long) ?value
  case small =>
    rw [div_lt_one (by positivity)]
    exact_mod_cast rest
  case cut => simp [Fmt.quotient, divisor]
  case long =>
    rw [Fmt.quotient, Nat.le_div_iff_mul_le (Nat.pos_of_ne_zero nonzero₂)]
    calc 2 ^ F.prec * m₂ ≤ 2 ^ F.prec * 2 ^ F.prec := by gcongr
      _ ≤ 1 * 2 ^ (2 * F.prec + 3) := by rw [one_mul, ← pow_add]; exact Nat.pow_le_pow_right two_pos (by omega)
      _ ≤ m₁ * 2 ^ (2 * F.prec + 3) := by gcongr; omega
  case value =>
    have split : (2 : ℚ) ^ e₁ = 2 ^ (2 * F.prec + 3) * 2 ^ (e₁ - e₂ - (2 * F.prec + 3 : ℕ)) * 2 ^ e₂ := by
      rw [← zpow_natCast, ← zpow_add₀ two_ne_zero, ← zpow_add₀ two_ne_zero]
      congr 1
      ring
    have unit : (2 : ℚ) ^ e₂ ≠ 0 := zpow_ne_zero _ two_ne_zero
    rw [Fmt.quotient, split, ← mul_assoc, mul_div_mul_right _ _ unit, ← mul_assoc, parts]
    field_simp

/-- The quotient of two finite values is their exact quotient rounded. -/
theorem Fmt.divVal_isRounding (exponent : 0 < F.expBits) {rm : RMode} {n₁ n₂ : Bool} {m₁ m₂ : ℕ} {e₁ e₂ : ℤ}
    (short : m₂ < 2 ^ F.prec) (nonzero₁ : (FpVal.fin n₁ m₁ e₁).toRat ≠ 0) (nonzero₂ : (FpVal.fin n₂ m₂ e₂).toRat ≠ 0) :
    F.IsRounding rm (decide ((FpVal.fin n₁ m₁ e₁).toRat / (FpVal.fin n₂ m₂ e₂).toRat < 0))
      |(FpVal.fin n₁ m₁ e₁).toRat / (FpVal.fin n₂ m₂ e₂).toRat| (F.divVal rm (.fin n₁ m₁ e₁) (.fin n₂ m₂ e₂)) := by
  have mag₁ := (FpVal.toRat_fin_eq_zero_iff n₁ m₁ e₁).not.mp nonzero₁
  have mag₂ := (FpVal.toRat_fin_eq_zero_iff n₂ m₂ e₂).not.mp nonzero₂
  have sign : decide ((FpVal.fin n₁ m₁ e₁).toRat / (FpVal.fin n₂ m₂ e₂).toRat < 0) = (n₁ != n₂) := by
    have product := FpVal.decide_toRat_neg (n := n₁ != n₂) (m := m₁ * m₂) (e := e₁ + e₂)
      (by rw [FpVal.toRat_mul]; exact mul_ne_zero nonzero₁ nonzero₂)
    rw [← product, FpVal.toRat_mul]
    simp only [div_neg_iff, mul_neg_iff]
  have stands := F.quotient_standsFor (n₁ != n₂) e₁ e₂ mag₁ mag₂ short
  rw [← FpVal.abs_toRat n₁, ← FpVal.abs_toRat n₂, ← abs_div] at stands
  rw [sign, Fmt.divVal, if_neg mag₂, if_neg mag₁]
  exact Fmt.round_isRounding exponent stands (abs_ne_zero.mpr (div_ne_zero nonzero₁ nonzero₂)) rm _

end Division

/-- Settles O52: the quotient that `round` is handed stands for the exact one. -/
theorem divisionRoundsTheExactQuotient : Obligations.DivisionRoundsTheExactQuotient := by
  intro F standard rm a b ha hb x y hx hy
  obtain ⟨m₁, e₁, ua⟩ := Fmt.unpack_of_isFinite ha
  obtain ⟨m₂, e₂, ub⟩ := Fmt.unpack_of_isFinite hb
  have short := Fmt.unpack_mag_lt ub
  simp only [x, y, Fmt.div, ua, ub] at hx hy ⊢
  exact Fmt.divVal_isRounding (Fmt.expBits_pos standard) short hx hy

-- ==== The square root ====

/-- Building a square root bit by bit: the part found stays at or below it, and within the bits to come. -/
theorem isqrtFrom_eq_sqrt {n i r : ℕ} (low : r * r ≤ n) (high : n < (r + 2 ^ i) * (r + 2 ^ i)) :
    isqrtFrom n i r = n.sqrt := by
  induction i generalizing r with
  | zero => exact Nat.eq_sqrt.mpr ⟨low, high⟩
  | succ i ih =>
    rw [isqrtFrom]
    split_ifs with bit
    · exact ih bit (by rwa [add_assoc, ← two_mul, ← pow_succ'])
    · exact ih low (Nat.lt_of_not_le bit)

/-- `isqrt` is the integer square root. -/
theorem isqrt_eq_sqrt (n : ℕ) : isqrt n = n.sqrt := by
  refine isqrtFrom_eq_sqrt (Nat.zero_le n) ?_
  rw [zero_add, ← pow_add]
  exact Nat.lt_log2_self.trans_le (Nat.pow_le_pow_right two_pos (by omega))

section Root

variable {F : Fmt}

/-- The root that was cut off stands for the real square root. -/
theorem Fmt.root_standsFor {m : ℕ} (e : ℤ) (nonzero : m ≠ 0) :
    (F.root m e).StandsFor F.prec (Real.sqrt (m * 2 ^ e)) := by
  have odd : ((e % 2).toNat : ℤ) = e % 2 := Int.toNat_of_nonneg (Int.emod_nonneg e two_ne_zero)
  generalize hn : m * 2 ^ (e % 2).toNat * 2 ^ (2 * (F.prec + 2)) = n
  have root : F.root m e = ⟨false, n.sqrt, (e - e % 2) / 2 - (F.prec + 2 : ℕ), decide (n.sqrt * n.sqrt ≠ n)⟩ := by
    rw [Fmt.root, ← isqrt_eq_sqrt, ← hn, odd]
  have value : Real.sqrt (m * 2 ^ e) = Real.sqrt n * 2 ^ ((e - e % 2) / 2 - (F.prec + 2 : ℕ)) := by
    have square : (m : ℝ) * 2 ^ e = n * (2 ^ ((e - e % 2) / 2 - (F.prec + 2 : ℕ)) : ℝ) ^ 2 := by
      have split : e = (e % 2).toNat + (2 * (F.prec + 2) : ℕ) + ((e - e % 2) / 2 - (F.prec + 2 : ℕ)) * (2 : ℕ) := by
        push_cast
        omega
      rw [← hn, ← zpow_natCast _ 2, ← zpow_mul]
      push_cast
      rw [← zpow_natCast, ← zpow_natCast, mul_assoc, mul_assoc, ← zpow_add₀ two_ne_zero, ← zpow_add₀ two_ne_zero]
      congr 2
      rw [← add_assoc]
      exact_mod_cast split
    rw [square, Real.sqrt_mul (Nat.cast_nonneg n), Real.sqrt_sq (zpow_nonneg zero_le_two _)]
  rw [root, value]
  refine Exact.standsFor_of_part (δ := Real.sqrt n - n.sqrt) ?nonneg ?small ?cut (fun _ => ?long) (by rw [add_sub_cancel])
  case nonneg => exact sub_nonneg.mpr Real.nat_sqrt_le_real_sqrt
  case small => exact sub_lt_iff_lt_add'.mpr Real.real_sqrt_lt_nat_sqrt_succ
  case cut =>
    rw [decide_eq_true_iff, sub_ne_zero, not_iff_not, Real.sqrt_eq_iff_mul_self_eq (Nat.cast_nonneg _) (Nat.cast_nonneg _)]
    norm_cast
    exact eq_comm
  case long =>
    refine Nat.le_sqrt.mpr ?_
    calc 2 ^ F.prec * 2 ^ F.prec ≤ 1 * 2 ^ (2 * (F.prec + 2)) := by
          rw [one_mul, ← pow_add]
          exact Nat.pow_le_pow_right two_pos (by omega)
      _ ≤ m * 2 ^ (e % 2).toNat * 2 ^ (2 * (F.prec + 2)) := by
          gcongr
          exact Nat.mul_pos (Nat.pos_of_ne_zero nonzero) (Nat.two_pow_pos _)
      _ = n := hn

end Root

/-- Settles O53: a positive value has a magnitude that is not 0, and the root that `round` is handed stands for its square
root. -/
theorem squareRootIsCorrectlyRounded : Obligations.SquareRootIsCorrectlyRounded := by
  intro F standard rm a ha positive
  obtain ⟨m, e, ua⟩ := Fmt.unpack_of_isFinite ha
  rw [ua] at positive
  have plus : F.signField a = false := by
    rw [← FpVal.decide_toRat_neg positive.ne', decide_eq_false_iff_not]
    exact positive.not_gt
  have mag : m ≠ 0 := (FpVal.toRat_fin_eq_zero_iff _ m e).not.mp positive.ne'
  have value : (((F.unpack a).toRat : ℚ) : ℝ) = m * 2 ^ e := by
    rw [ua, plus]
    simp [FpVal.toRat]
  have unit : (0 : ℝ) < m * 2 ^ e := by positivity
  rw [value, Fmt.sqrt, ua, plus, Fmt.sqrtVal, if_neg mag]
  exact Fmt.round_isRounding (Fmt.expBits_pos standard) (F.root_standsFor e mag) (Real.sqrt_pos.mpr unit).ne' rm false

end Sys2Proof.Machine
end

section
/-! The special operands: NaNs, infinities and zeros (R261, R262). -/

namespace Sys2Proof.Machine

-- ==== NaNs ====

section NaNs

variable {F : Fmt} {rm : RMode} {u v w : FpVal}

/-- A NaN stays one when its sign is inverted. -/
@[simp] theorem FpVal.isNaN_negate (v : FpVal) : v.negate.isNaN = v.isNaN := by cases v <;> rfl

/-- A NaN stays as it is when its sign is inverted. -/
@[simp] theorem FpVal.isSignaling_negate (v : FpVal) : v.negate.isSignaling = v.isSignaling := by cases v <;> rfl

/-- A sum with a NaN (R261). -/
theorem Fmt.addVal_of_isNaN (h : (u.isNaN || v.isNaN) = true) :
    F.addVal rm u v = F.quieted (u.isSignaling || v.isSignaling) := by
  cases u with
  | nan => rfl
  | inf | fin =>
    cases v with
    | nan => exact congrArg F.quieted (Bool.or_comm _ _)
    | inf | fin => cases h

/-- A product with a NaN (R261). -/
theorem Fmt.mulVal_of_isNaN (h : (u.isNaN || v.isNaN) = true) :
    F.mulVal rm u v = F.quieted (u.isSignaling || v.isSignaling) := by
  cases u with
  | nan => rfl
  | inf | fin =>
    cases v with
    | nan => exact congrArg F.quieted (Bool.or_comm _ _)
    | inf | fin => cases h

/-- A quotient with a NaN (R261). -/
theorem Fmt.divVal_of_isNaN (h : (u.isNaN || v.isNaN) = true) :
    F.divVal rm u v = F.quieted (u.isSignaling || v.isSignaling) := by
  cases u with
  | nan => rfl
  | inf | fin =>
    cases v with
    | nan => exact congrArg F.quieted (Bool.or_comm _ _)
    | inf | fin => cases h

/-- The root of a NaN (R261). -/
theorem Fmt.sqrtVal_of_isNaN (h : u.isNaN = true) : F.sqrtVal rm u = F.quieted u.isSignaling := by
  cases u with
  | nan => rfl
  | inf | fin => cases h

end NaNs

-- ==== Zeros and other finite patterns ====

section Patterns

variable {F : Fmt} {a : ℕ}

/-- A pattern of the number 0. -/
theorem Fmt.unpack_of_toRat_eq_zero (finite : (F.unpack a).IsFinite) (zero : (F.unpack a).toRat = 0) :
    ∃ e, F.unpack a = .fin (F.signField a) 0 e := by
  obtain ⟨m, e, h⟩ := Fmt.unpack_of_isFinite finite
  rw [h, FpVal.toRat_fin_eq_zero_iff] at zero
  exact ⟨e, by rw [h, zero]⟩

/-- A pattern of another number. -/
theorem Fmt.unpack_of_toRat_ne_zero (finite : (F.unpack a).IsFinite) (nonzero : (F.unpack a).toRat ≠ 0) :
    ∃ m e, m ≠ 0 ∧ F.unpack a = .fin (F.signField a) m e := by
  obtain ⟨m, e, h⟩ := Fmt.unpack_of_isFinite finite
  rw [h, Ne, FpVal.toRat_fin_eq_zero_iff] at nonzero
  exact ⟨m, e, nonzero, h⟩

end Patterns

/-- Settles O54: the kinds of the operands select the branch of each operation. -/
theorem specialOperandsGiveTheirResults : Obligations.SpecialOperandsGiveTheirResults := by
  intro F _ rm a b n n' va vb s quieted invalid
  refine ⟨fun nan => ⟨?addNaN, ?subNaN, ?mulNaN, ?divNaN⟩, fun nan => ?sqrtNaN, fun ua ub => ?addInvalid,
    fun ua ub => ?subInvalid, fun ua ub => ?divInfinities, fun ua fb zb => ?mulInvalid, fun fa za fb zb => ?divZeros,
    fun fa za fb zb => ?divByZero, fun ua other => ?addInfinity, fun ua other => ?subInfinity, fun ua other => ?mulInfinity,
    fun ua fb => ?divInfinity, fun fa negative => ?sqrtNegative, fun ua => ?sqrtMinusInfinity, fun ua => ?sqrtInfinity,
    fun fa za => ?sqrtZero⟩
  case addNaN => exact Fmt.addVal_of_isNaN nan
  case subNaN =>
    have signaling : (va.isSignaling || vb.negate.isSignaling) = (va.isSignaling || vb.isSignaling) := by
      rw [FpVal.isSignaling_negate]
    exact (Fmt.addVal_of_isNaN (by rwa [FpVal.isNaN_negate])).trans (congrArg F.quieted signaling)
  case mulNaN => exact Fmt.mulVal_of_isNaN nan
  case divNaN => exact Fmt.divVal_of_isNaN nan
  case sqrtNaN => exact Fmt.sqrtVal_of_isNaN nan
  case addInvalid =>
    show F.addVal rm va vb = _
    rw [ua, ub]
    exact if_neg (Bool.not_ne_self n).symm
  case subInvalid =>
    show F.addVal rm va vb.negate = _
    rw [ua, ub]
    exact if_neg (Bool.not_ne_self n).symm
  case divInfinities =>
    show F.divVal rm va vb = _
    rw [ua, ub]
    rfl
  case mulInvalid =>
    obtain ⟨e, ub⟩ : ∃ e, vb = .fin _ 0 e := Fmt.unpack_of_toRat_eq_zero fb zb
    show F.mulVal rm va vb = _ ∧ F.mulVal rm vb va = _
    rw [ua, ub]
    exact ⟨rfl, rfl⟩
  case divZeros =>
    obtain ⟨e₁, ua⟩ : ∃ e, va = .fin _ 0 e := Fmt.unpack_of_toRat_eq_zero fa za
    obtain ⟨e₂, ub⟩ : ∃ e, vb = .fin _ 0 e := Fmt.unpack_of_toRat_eq_zero fb zb
    show F.divVal rm va vb = _
    rw [ua, ub]
    rfl
  case divByZero =>
    obtain ⟨m, e₁, nonzero, ua⟩ : ∃ m e, m ≠ 0 ∧ va = .fin _ m e := Fmt.unpack_of_toRat_ne_zero fa za
    obtain ⟨e₂, ub⟩ : ∃ e, vb = .fin _ 0 e := Fmt.unpack_of_toRat_eq_zero fb zb
    show F.divVal rm va vb = _
    rw [ua, ub]
    exact if_neg nonzero
  case addInfinity =>
    show F.addVal rm va vb = _ ∧ F.addVal rm vb va = _
    rcases other with fb | ub
    · obtain ⟨_, m, e, ub⟩ := fb.exists_fin
      rw [ua, ub]
      exact ⟨rfl, rfl⟩
    · rw [ua, ub]
      exact ⟨if_pos rfl, if_pos rfl⟩
  case subInfinity =>
    show F.addVal rm va vb.negate = _ ∧ F.addVal rm vb va.negate = _
    rcases other with fb | ub
    · obtain ⟨_, m, e, ub⟩ := fb.exists_fin
      rw [ua, ub]
      exact ⟨rfl, rfl⟩
    · rw [ua, ub, FpVal.negate, FpVal.negate, Bool.not_not]
      exact ⟨if_pos rfl, if_pos rfl⟩
  case mulInfinity =>
    obtain rfl := Fmt.signField_of_unpack_eq_inf ua
    have swapped : s = (F.signField b != F.signField a) := bne_comm ..
    suffices both : F.mulVal rm va vb = ⟨F.infinity s, 0⟩ ∧
        F.mulVal rm vb va = ⟨F.infinity (F.signField b != F.signField a), 0⟩ by
      rw [← swapped] at both
      exact both
    rcases other with ⟨fb, zb⟩ | ub
    · obtain ⟨m, e, nonzero, ub⟩ : ∃ m e, m ≠ 0 ∧ vb = .fin _ m e := Fmt.unpack_of_toRat_ne_zero fb zb
      rw [ua, ub]
      exact ⟨if_neg nonzero, if_neg nonzero⟩
    · obtain rfl := Fmt.signField_of_unpack_eq_inf ub
      rw [ua, ub]
      exact ⟨rfl, rfl⟩
  case divInfinity =>
    obtain rfl := Fmt.signField_of_unpack_eq_inf ua
    have swapped : s = (F.signField b != F.signField a) := bne_comm ..
    suffices both : F.divVal rm va vb = ⟨F.infinity s, 0⟩ ∧
        F.divVal rm vb va = ⟨F.zero (F.signField b != F.signField a), 0⟩ by
      rw [← swapped] at both
      exact both
    obtain ⟨m, e, ub⟩ : ∃ m e, vb = .fin _ m e := Fmt.unpack_of_isFinite fb
    rw [ua, ub]
    exact ⟨rfl, rfl⟩
  case sqrtNegative =>
    obtain ⟨m, e, nonzero, ua⟩ : ∃ m e, m ≠ 0 ∧ va = .fin _ m e := Fmt.unpack_of_toRat_ne_zero fa negative.ne
    rw [ua] at negative
    have minus : F.signField a = true := (FpVal.decide_toRat_neg negative.ne).symm.trans (decide_eq_true negative)
    show F.sqrtVal rm va = _
    rw [ua, minus]
    exact if_neg nonzero
  case sqrtMinusInfinity | sqrtInfinity =>
    show F.sqrtVal rm va = _
    rw [ua]
    rfl
  case sqrtZero =>
    obtain ⟨e, ua⟩ : ∃ e, va = .fin _ 0 e := Fmt.unpack_of_toRat_eq_zero fa za
    show F.sqrtVal rm va = _
    rw [ua]
    rfl

-- ==== The fused operation ====

/-- An infinity and a zero. -/
def FpVal.InfAndZero (u v : FpVal) : Prop := (u = .inf false ∨ u = .inf true) ∧ v.IsFinite ∧ v.toRat = 0

/-- A product ∞ × 0 is that of an infinity and a zero, in either order. -/
theorem infTimesZero_iff (u v : FpVal) : infTimesZero u v = true ↔ u.InfAndZero v ∨ v.InfAndZero u := by
  cases u with
  | nan => cases v <;> simp [infTimesZero, FpVal.InfAndZero, FpVal.IsFinite]
  | inf n =>
    cases v with
    | nan | inf => simp [infTimesZero, FpVal.InfAndZero, FpVal.IsFinite]
    | fin => cases n <;> simp [infTimesZero, FpVal.InfAndZero, FpVal.IsFinite, FpVal.toRat_fin_eq_zero_iff]
  | fin =>
    cases v with
    | nan | fin => simp [infTimesZero, FpVal.InfAndZero, FpVal.IsFinite]
    | inf n => cases n <;> simp [infTimesZero, FpVal.InfAndZero, FpVal.IsFinite, FpVal.toRat_fin_eq_zero_iff]

section Fused

variable {F : Fmt} {rm : RMode} {negp : Bool} {u v w : FpVal}

/-- A fused operation with a NaN whose product is not ∞ × 0 (R262). -/
theorem Fmt.fusedVal_of_isNaN (valid : ¬ infTimesZero u v = true) (nan : (u.isNaN || v.isNaN || w.isNaN) = true) :
    F.fusedVal rm negp u v w = F.quieted (u.isSignaling || v.isSignaling || w.isSignaling) := by
  refine (if_neg valid).trans ?_
  cases u with
  | nan => rfl
  | inf | fin =>
    cases v with
    | nan => exact congrArg (fun s => F.quieted (s || w.isSignaling)) (Bool.or_comm _ _)
    | inf | fin =>
      cases w with
      | nan => rfl
      | inf | fin => cases nan

/-- A fused operation whose product is infinite by its first operand. -/
theorem Fmt.fusedVal_inf_fin {n₁ n₂ : Bool} {m : ℕ} {e : ℤ} (nonzero : m ≠ 0) (number : w.isNaN = false) :
    F.fusedVal rm negp (.inf n₁) (.fin n₂ m e) w = F.infPlus ((n₁ != n₂) != negp) w := by
  have valid : ¬ infTimesZero (.inf n₁) (.fin n₂ m e) = true := by rwa [infTimesZero, decide_eq_true_iff]
  refine (if_neg valid).trans ?_
  cases w with
  | nan => cases number
  | inf | fin => rfl

/-- A fused operation whose product is infinite by its second operand. -/
theorem Fmt.fusedVal_fin_inf {n₁ n₂ : Bool} {m : ℕ} {e : ℤ} (nonzero : m ≠ 0) (number : w.isNaN = false) :
    F.fusedVal rm negp (.fin n₁ m e) (.inf n₂) w = F.infPlus ((n₁ != n₂) != negp) w := by
  have valid : ¬ infTimesZero (.fin n₁ m e) (.inf n₂) = true := by rwa [infTimesZero, decide_eq_true_iff]
  refine (if_neg valid).trans ?_
  cases w with
  | nan => cases number
  | inf | fin => rfl

/-- A fused operation whose product is infinite by both operands. -/
theorem Fmt.fusedVal_inf_inf {n₁ n₂ : Bool} (number : w.isNaN = false) :
    F.fusedVal rm negp (.inf n₁) (.inf n₂) w = F.infPlus ((n₁ != n₂) != negp) w := by
  cases w with
  | nan => cases number
  | inf | fin => rfl

/-- The addend of a fused operation keeps its kind. -/
theorem FpVal.isNaN_addend (negc : Bool) (v : FpVal) : (if negc then v.negate else v).isNaN = v.isNaN := by
  cases negc <;> simp

/-- A NaN as addend of a fused operation stays as it is. -/
theorem FpVal.isSignaling_addend (negc : Bool) (v : FpVal) : (if negc then v.negate else v).isSignaling = v.isSignaling := by
  cases negc <;> simp

/-- A finite addend of a fused operation, its sign inverted where `negc` is set (R262). -/
theorem FpVal.addend_fin (negc n : Bool) (m : ℕ) (e : ℤ) :
    (if negc then (FpVal.fin n m e).negate else .fin n m e) = .fin (n != negc) m e := by
  cases negc <;> simp [FpVal.negate]

/-- An infinite addend of a fused operation, its sign inverted where `negc` is set (R262). -/
theorem FpVal.addend_inf (negc n : Bool) : (if negc then (FpVal.inf n).negate else .inf n) = .inf (n != negc) := by
  cases negc <;> simp [FpVal.negate]

end Fused

/-- Settles O55: ∞ × 0 is tested first, then NaNs; an infinite product is then added to the addend. -/
theorem fusedSpecialOperandsGiveTheirResults : Obligations.FusedSpecialOperandsGiveTheirResults := by
  intro F _ rm np nc n n' a b c va vb vc s invalid infTimesZero infTimes
  refine ⟨fun zero => if_pos ((infTimesZero_iff va vb).mpr zero), fun left right nan => ?nan, fun infinite => ?infinite,
    fun fa fb uc => ?addend⟩
  case nan =>
    have valid : ¬ Machine.infTimesZero va vb = true := (infTimesZero_iff va vb).not.mpr (not_or.mpr ⟨left, right⟩)
    have result := F.fusedVal_of_isNaN (rm := rm) (negp := np) (w := if nc then vc.negate else vc) valid
      (by rwa [FpVal.isNaN_addend])
    rw [FpVal.isSignaling_addend] at result
    exact result
  case infinite =>
    have product : ∀ w : FpVal, w.isNaN = false → F.fusedVal rm np va vb w = F.infPlus s w := by
      intro w number
      rcases infinite with ⟨ua, ⟨fb, zb⟩ | ub⟩ | ⟨ub, ⟨fa, za⟩ | ua⟩
      · obtain ⟨m, e, nonzero, hb⟩ : ∃ m e, m ≠ 0 ∧ vb = .fin _ m e := Fmt.unpack_of_toRat_ne_zero fb zb
        rw [hb, ua, Fmt.fusedVal_inf_fin nonzero number, ← Fmt.signField_of_unpack_eq_inf ua]
      · rw [ua, ub, Fmt.fusedVal_inf_inf number, ← Fmt.signField_of_unpack_eq_inf ua, ← Fmt.signField_of_unpack_eq_inf ub]
      · obtain ⟨m, e, nonzero, ha⟩ : ∃ m e, m ≠ 0 ∧ va = .fin _ m e := Fmt.unpack_of_toRat_ne_zero fa za
        rw [ha, ub, Fmt.fusedVal_fin_inf nonzero number, ← Fmt.signField_of_unpack_eq_inf ub]
      · rw [ua, ub, Fmt.fusedVal_inf_inf number, ← Fmt.signField_of_unpack_eq_inf ua, ← Fmt.signField_of_unpack_eq_inf ub]
    show (_ → F.fusedVal rm np va vb (if nc then vc.negate else vc) = _) ∧
      (_ → F.fusedVal rm np va vb (if nc then vc.negate else vc) = _)
    refine ⟨fun keeps => ?_, fun uc => ?_⟩
    · rcases keeps with fc | uc
      · obtain ⟨n₃, m₃, e₃, uc⟩ := fc.exists_fin
        rw [uc, FpVal.addend_fin, product _ rfl]
        rfl
      · have same : ((s != nc) != nc) = s := by cases nc <;> simp
        rw [uc, FpVal.addend_inf, product _ rfl]
        exact if_pos same
    · have opposite : ((!(s != nc)) != nc) = !s := by cases nc <;> simp
      rw [uc, FpVal.addend_inf, product _ rfl]
      exact if_neg (by rw [opposite]; exact Bool.not_ne_self s)
  case addend =>
    obtain ⟨n₁, m₁, e₁, ua⟩ := fa.exists_fin
    obtain ⟨n₂, m₂, e₂, ub⟩ := fb.exists_fin
    show F.fusedVal rm np va vb (if nc then vc.negate else vc) = _
    rw [ua, ub, uc, FpVal.addend_inf]
    rfl

end Sys2Proof.Machine
end

section
/-! The conversions to floating point (R284, R285, R303), and that one to a wider format rounds nothing. -/

namespace Sys2Proof.Machine

section Convert

variable {F G : Fmt} {rm : RMode} {a : ℕ}

/-- A finite value is converted by rounding it. -/
theorem Fmt.convert_of_fin {n : Bool} {m : ℕ} {e : ℤ} (h : G.unpack a = .fin n m e) :
    F.convert G rm a = F.round rm ⟨n, m, e, false⟩ n := by rw [Fmt.convert, h]

/-- An infinity stays. -/
theorem Fmt.convert_of_inf {n : Bool} (h : G.unpack a = .inf n) : F.convert G rm a = ⟨F.infinity n, 0⟩ := by
  rw [Fmt.convert, h]

/-- A NaN becomes the canonical one. -/
theorem Fmt.convert_of_isNaN (h : (G.unpack a).isNaN = true) :
    F.convert G rm a = F.quieted (G.unpack a).isSignaling := by
  cases ua : G.unpack a with
  | nan => rw [Fmt.convert, ua]; rfl
  | inf | fin => rw [ua] at h; cases h

/-- The exponents of the finite patterns of a format. -/
theorem Fmt.unpack_exp_bounds (exponent : 0 < F.expBits) {n : Bool} {m : ℕ} {e : ℤ} (h : F.unpack a = .fin n m e) :
    F.emin ≤ e + F.fracBits ∧ e + F.fracBits ≤ max F.emin F.bias := by
  have bias := F.two_mul_bias exponent
  have emin : F.emin = 1 - F.bias := rfl
  have width : F.expField a < 2 ^ F.expBits := Nat.mod_lt _ (Nat.two_pow_pos _)
  obtain ⟨_, notOnes, ⟨_, _, exp⟩ | ⟨_, _, exp⟩⟩ := Fmt.unpack_fin_cases h <;> omega

section Exactness

variable {K : Type} [Field K] [LinearOrder K] [FloorRing K]

/-- A number in range that rounding leaves as it is: the result stands for it, and there is no flag. -/
theorem Fmt.IsRounding.exact {neg : Bool} {x : K} {e₀ : ℤ} {o : FpOut} (h : F.IsRounding rm neg x o) (low : 2 ^ e₀ ≤ x)
    (high : x < 2 ^ (e₀ + 1)) (same : F.roundAt rm neg x (max e₀ F.emin) = x) (below : x < 2 ^ (F.bias + 1)) :
    (∃ m e, F.unpack o.bits = .fin neg m e ∧ (m : K) * 2 ^ e = x) ∧ o.flags = 0 := by
  obtain ⟨value, _, flags⟩ := (h e₀ low high).2 (same.trans_lt below)
  rw [same] at value
  rw [same, decide_eq_false (not_not.mpr rfl), Bool.false_and] at flags
  exact ⟨value, flags⟩

variable [IsStrictOrderedRing K]

/-- Rounding leaves a multiple of the last place as it is. -/
theorem Fmt.roundAt_of_multiple (rm : RMode) (neg : Bool) (m : ℕ) {e e' : ℤ} (fine : e' - F.fracBits ≤ e) :
    F.roundAt rm neg ((m : K) * 2 ^ e) e' = m * 2 ^ e := by
  have unit : (2 : K) ^ (e' - F.fracBits) ≠ 0 := zpow_ne_zero _ two_ne_zero
  have units : (m : K) * 2 ^ e = ((m * 2 ^ (e - (e' - F.fracBits)).toNat : ℕ) : ℤ) * 2 ^ (e' - F.fracBits) := by
    push_cast
    rw [← zpow_natCast, Int.toNat_of_nonneg (sub_nonneg.mpr fine), mul_assoc, ← zpow_add₀ two_ne_zero, sub_add_cancel]
  rw [Fmt.roundAt, F.sub_prec_add_one, units, mul_div_cancel_right₀ _ unit, roundToInt_intCast]

end Exactness

/-- A zero pattern, unpacked. -/
theorem Fmt.unpack_zero (exponent : 0 < F.expBits) (neg : Bool) :
    F.unpack (F.zero neg) = .fin neg 0 (F.emin - F.fracBits) := by
  have fields : F.zero neg = F.ofFields neg 0 0 := by rw [Fmt.ofFields, Nat.zero_mul]; rfl
  rw [fields, Fmt.unpack_ofFields_zero exponent neg (Nat.two_pow_pos _)]

/-- A finite pattern, and no less precise a format with at least the same range: the conversion is exact. -/
theorem Fmt.convert_exact (exponentF : 0 < F.expBits) (exponentG : 0 < G.expBits) (longer : G.fracBits ≤ F.fracBits)
    (lower : F.emin - F.fracBits ≤ G.emin - G.fracBits) (higher : max G.emin G.bias ≤ F.bias)
    (finite : (G.unpack a).IsFinite) :
    (F.unpack (F.convert G rm a).bits).IsFinite ∧ (F.unpack (F.convert G rm a).bits).toRat = (G.unpack a).toRat ∧
      (F.convert G rm a).flags = 0 := by
  obtain ⟨n, m, e, h⟩ := finite.exists_fin
  have value : (G.unpack a).toRat = (FpVal.fin n m e).toRat := congrArg FpVal.toRat h
  rw [Fmt.convert_of_fin h, value]
  by_cases zero : m = 0
  · rw [Fmt.round_of_zero ⟨zero, rfl⟩, Fmt.unpack_zero exponentF]
    exact ⟨trivial, by simp [FpVal.toRat, zero], rfl⟩
  · have nonzero : (FpVal.fin n m e).toRat ≠ 0 := (FpVal.toRat_fin_eq_zero_iff n m e).not.mpr zero
    obtain ⟨least, greatest⟩ := Fmt.unpack_exp_bounds exponentG h
    have bits : m.log2 < G.prec := (Nat.log2_lt zero).mpr (Fmt.unpack_mag_lt h)
    have stands : Exact.StandsFor ⟨n, m, e, false⟩ F.prec |(FpVal.fin n m e).toRat| :=
      Exact.standsFor_of_eq rfl (FpVal.abs_toRat n m e)
    obtain ⟨low, high⟩ := stands.log2_bounds (abs_ne_zero.mpr nonzero)
    have rounding := Fmt.round_isRounding exponentF stands (abs_ne_zero.mpr nonzero) rm n
    have log2 : Exact.log2 ⟨n, m, e, false⟩ = e + m.log2 := rfl
    rw [Fmt.prec] at bits
    have same : F.roundAt rm n |(FpVal.fin n m e).toRat| (max (Exact.log2 ⟨n, m, e, false⟩) F.emin) =
        |(FpVal.fin n m e).toRat| := by
      rw [FpVal.abs_toRat]
      exact Fmt.roundAt_of_multiple rm n m (by omega)
    have below : |(FpVal.fin n m e).toRat| < 2 ^ (F.bias + 1) :=
      high.trans_le (zpow_le_zpow_right₀ one_le_two (by omega))
    obtain ⟨⟨m', e', unpacked, magnitude⟩, flags⟩ := rounding.exact low high same below
    rw [unpacked]
    refine ⟨trivial, ?_, flags⟩
    rw [FpVal.abs_toRat] at magnitude
    rw [FpVal.toRat, FpVal.toRat, mul_assoc, mul_assoc, magnitude]

end Convert

/-- Settles O56: a conversion is one rounding of a finite value or of an integer; the double format holds every single. -/
theorem conversionsRoundTheValue : Obligations.ConversionsRoundTheValue := by
  intro F standardF G standardG rm a i n v x
  have exponentF := Fmt.expBits_pos standardF
  refine ⟨fun finite nonzero => ?finite, fun finite zero => ?zero, Fmt.convert_of_inf, Fmt.convert_of_isNaN,
    fun finite isDouble isSingle => ?exact, fun nonzero => ?ofInt, ?ofIntZero⟩
  case finite =>
    obtain ⟨n, m, e, h⟩ : ∃ n m e, v = .fin n m e := finite.exists_fin
    have value : x = (FpVal.fin n m e).toRat := congrArg FpVal.toRat h
    rw [value] at nonzero ⊢
    rw [Fmt.convert_of_fin h]
    exact Fmt.round_fin_isRounding exponentF nonzero
  case zero =>
    obtain ⟨e, h⟩ := Fmt.unpack_of_toRat_eq_zero finite zero
    rw [Fmt.convert_of_fin h, Fmt.round_of_zero ⟨rfl, rfl⟩]
  case exact =>
    subst isDouble isSingle
    exact Fmt.convert_exact exponentF (Fmt.expBits_pos standardG) (by decide) (by decide) (by decide) finite
  case ofInt =>
    have sign : decide (i < 0) = decide ((i : ℚ) < 0) := decide_eq_decide.mpr Int.cast_lt_zero.symm
    rw [sign]
    exact Fmt.round_exactOfInt_isRounding exponentF (by rw [zpow_zero, mul_one]) (Int.cast_ne_zero.mpr nonzero)
  case ofIntZero => exact Fmt.round_exactOfInt_zero (by rw [Int.cast_zero, zero_mul])

end Sys2Proof.Machine
end

section
/-! What an instruction raises (R400 to R402, R412): each shared operation completes with the trap record as it was, or raises
an exception of the codes it may raise; the instructions follow. -/

namespace Sys2Proof.Machine

/-- The result `r`, if it is a next state, has the trap record of `s`, or is `s` with an exception of one of the codes
taken. -/
def RaisesOnly (s : State) (codes : List Nat) (r : Result) : Prop :=
  ∀ t, r = .next t → t.trap = s.trap ∨ ∃ e, t = s.withTrap e ∧ e.code ∈ codes

/-- The codes of the exceptions that the check of an access raises (R407, R408): one byte is never misaligned. -/
def AccessClass.codes (c : AccessClass) (n : Nat) : List Nat :=
  if n = 1 then [(c.forbidden 0).code] else [(c.misaligned 0).code, (c.forbidden 0).code]

/-- An access that is not allowed raises a code of its class, whatever its address and size. -/
theorem AccessClass.forbidden_code_mem (c : AccessClass) (a : Dword) (n : Nat) : (c.forbidden a).code ∈ c.codes n := by
  have anywhere : (c.forbidden a).code = (c.forbidden 0).code := by cases c <;> rfl
  rw [AccessClass.codes, anywhere]
  split_ifs <;> simp

/-- A misaligned access of more than one byte raises a code of its class, whatever its address. -/
theorem AccessClass.misaligned_code_mem (c : AccessClass) (a : Dword) {n : Nat} (wide : n ≠ 1) :
    (c.misaligned a).code ∈ c.codes n := by
  have anywhere : (c.misaligned a).code = (c.misaligned 0).code := by cases c <;> rfl
  rw [AccessClass.codes, anywhere, if_neg wide]
  exact List.mem_cons_self

/-- The check of an access raises only the codes of its class and size. -/
theorem State.checkAccess_code {s : State} {c : AccessClass} {a : Dword} {n : Nat} {e : Exception}
    (h : s.checkAccess c a n = some e) : e.code ∈ c.codes n := by
  by_cases aligned : a.toNat % n = 0
  · rw [State.checkAccess, if_neg (not_not.mpr aligned)] at h
    split_ifs at h
    cases h
    exact c.forbidden_code_mem a n
  · rw [State.checkAccess_misaligned s c a n aligned] at h
    cases h
    exact c.misaligned_code_mem a fun single => aligned (by rw [single, Nat.mod_one])

/-- Reading a CSR leaves the trap record alone. -/
@[simp] theorem State.readCsr_trap (s : State) (c : Csr) : (s.readCsr c).2.trap = s.trap := by cases c <;> rfl

section Operations

variable {s u : State} {codes : List Nat}

/-- An instruction that completes without touching the record. -/
theorem RaisesOnly.completes (kept : u.trap = s.trap) : RaisesOnly s codes u.completes := by
  intro t h
  cases h
  exact .inl kept

/-- An instruction that raises. -/
theorem RaisesOnly.takeTrap {e : Exception} (listed : e.code ∈ codes) : RaisesOnly s codes (s.takeTrap e) := by
  intro t h
  cases h
  exact .inr ⟨e, rfl, listed⟩

/-- An instruction with an rm field raises IllegalInstruction besides what it raises under a usable mode (R98). -/
theorem RaisesOnly.withRm {i : Instr} {rm : BitVec 3} {k : RMode → Result} (listed : 2 ∈ codes)
    (usable : ∀ m, RaisesOnly s codes (k m)) : RaisesOnly s codes (s.withRm i rm k) := by
  unfold State.withRm
  cases s.rmode rm with
  | none => exact .takeTrap listed
  | some m => exact usable m

/-- A jump raises where its target is misaligned (R404). -/
theorem RaisesOnly.jumpTo {target : Dword} (kept : u.trap = s.trap) : RaisesOnly s [0] (s.jumpTo u target) := by
  intro t h
  obtain rfl | rfl := State.jumpTo_next h
  · exact .inl kept
  · exact .inr ⟨_, rfl, List.mem_singleton.mpr rfl⟩

/-- A branch raises where it is taken and its target is misaligned (R404). -/
theorem RaisesOnly.branchIf {taken : Bool} {off : BitVec 13} : RaisesOnly s [0] (s.branchIf taken off) := by
  rw [State.branchIf_eq]
  cases taken with
  | false => exact .completes rfl
  | true => exact .jumpTo rfl

/-- A load, an `lr` and an `amo*` raise what the check of their access raises. -/
theorem RaisesOnly.read {c : AccessClass} {a : Dword} {n : Nat} {k : Nat → State} (kept : ∀ v, (k v).trap = s.trap) :
    RaisesOnly s (c.codes n) (((s.memRead c a n).map k).finish s) := by
  intro t h
  obtain ⟨v, _, _, rfl⟩ | ⟨e, raised, rfl⟩ := State.read_finish_next h
  · exact .inl (kept v)
  · exact .inr ⟨e, rfl, State.checkAccess_code raised⟩

/-- A store raises what its check raises. -/
theorem RaisesOnly.store {a : Dword} {n v : Nat} : RaisesOnly s (AccessClass.store.codes n) (s.store a n v) := by
  intro t h
  rw [State.store_eq] at h
  split at h <;> cases h
  next => exact .inl rfl
  next e raised => exact .inr ⟨e, rfl, State.checkAccess_code raised⟩

/-- An `sc` raises what its check raises, whatever the reservation. -/
theorem RaisesOnly.storeConditional {rd : Reg} {a : Dword} {n v : Nat} :
    RaisesOnly s (AccessClass.store.codes n) (s.storeConditional rd a n v) := by
  intro t h
  rw [State.storeConditional_eq] at h
  cases h
  split
  next e raised => exact .inr ⟨e, rfl, State.checkAccess_code raised⟩
  next => split_ifs <;> exact .inl rfl

/-- A CSR access raises IllegalInstruction (R190). -/
theorem RaisesOnly.csrAccess {i : Instr} {a : BitVec 12} {rd : Reg} {reads writes : Bool} {new : Dword → Dword} :
    RaisesOnly s [2] (s.csrAccess i a rd reads writes new) := by
  intro t h
  rw [State.csrAccess_eq] at h
  split at h <;> cases h
  next => exact .inr ⟨_, rfl, List.mem_singleton.mpr rfl⟩
  next c _ =>
    split
    next => exact .inr ⟨_, rfl, List.mem_singleton.mpr rfl⟩
    next => cases reads <;> cases writes <;> exact .inl (by simp)

end Operations

/-- Every instruction raises only the exceptions the table of R402 gives it, and leaves the record otherwise. -/
theorem exec_raisesOnly (i : Instr) (s : State) : RaisesOnly s (mayRaise i) (exec i s) := by
  cases i with
  | add | addw | addi | addiw | and | andi | auipc | lui | or | ori | sll | sllw | slli | slliw | slt | slti | sltiu | sltu
  | sra | sraw | srai | sraiw | srl | srlw | srli | srliw | sub | subw | xor | xori | fence | fenceI
  | mul | mulw | mulh | mulhu | mulhsu | div | divw | divu | divuw | rem | remw | remu | remuw
  | fsgnjS | fsgnjD | fsgnjnS | fsgnjnD | fsgnjxS | fsgnjxD | fminS | fminD | fmaxS | fmaxD
  | feqS | feqD | fltS | fltD | fleS | fleD | fclassS | fclassD | fmvSX | fmvDX | fmvXS | fmvXD =>
    exact .completes rfl
  | faddS | faddD | fsubS | fsubD | fmulS | fmulD | fdivS | fdivD | fsqrtS | fsqrtD
  | fmaddS | fmaddD | fmsubS | fmsubD | fnmaddS | fnmaddD | fnmsubS | fnmsubD | fcvtSD | fcvtDS
  | fcvtSW | fcvtDW | fcvtSL | fcvtDL | fcvtSWu | fcvtDWu | fcvtSLu | fcvtDLu
  | fcvtWS | fcvtWD | fcvtLS | fcvtLD | fcvtWuS | fcvtWuD | fcvtLuS | fcvtLuD =>
    exact .withRm (List.mem_singleton.mpr rfl) fun _ => .completes rfl
  | ecall | ebreak => exact .takeTrap (List.mem_singleton.mpr rfl)
  | beq | bne | blt | bge | bltu | bgeu => exact .branchIf
  | jal | jalr => exact .jumpTo rfl
  | lb | lbu | lh | lhu | lw | lwu | ld | flw | fld | lrW | lrD => exact .read (c := .load) fun _ => rfl
  | sb | sh | sw | sd | fsw | fsd => exact .store
  | amoaddW | amoaddD | amoandW | amoandD | amomaxW | amomaxD | amomaxuW | amomaxuD | amominW | amominD | amominuW
  | amominuD | amoorW | amoorD | amoswapW | amoswapD | amoxorW | amoxorD => exact .read (c := .amo) fun _ => rfl
  | scW | scD => exact .storeConditional
  | csrrw | csrrs | csrrc | csrrwi | csrrsi | csrrci =>
    unfold exec
    exact .csrAccess

/-- An instruction that leaves a record where there was none has taken that exception, and done nothing else. -/
theorem raised_of_trap {i : Instr} {s t : State} {e : Exception} (running : s.trap = none) (executed : exec i s = .next t)
    (raised : t.trap = some e) : t = s.withTrap e ∧ e.code ∈ mayRaise i := by
  obtain kept | ⟨e', rfl, listed⟩ := exec_raisesOnly i s t executed
  · rw [kept, running] at raised
    cases raised
  · cases raised
    exact ⟨rfl, listed⟩

/-- Settles O11: the state with the exception taken is the old one but for the reservation and the record. -/
theorem raisingInstructionChangesNothing : Obligations.RaisingInstructionChangesNothing :=
  fun _ _ _ _ running executed raised => (raised_of_trap running executed raised).1

/-- Settles O12: the exception taken has one of the codes of the table. -/
theorem instructionRaisesOnlyItsExceptions : Obligations.InstructionRaisesOnlyItsExceptions :=
  fun _ _ _ _ running executed raised => (raised_of_trap running executed raised).2

end Sys2Proof.Machine
end

section
/-! The step of a hart (R53, R403, R405, R425), and what becomes of a trap record (R400, R414). -/

namespace Sys2Proof.Machine

-- ==== The word at `pc` ====

/-- A byte appended below is the least significant digit. -/
theorem toNat_append_byte {w : Nat} (v : BitVec w) (b : Byte) : (v ++ b).toNat = b.toNat + 256 * v.toNat := by
  rw [BitVec.toNat_append, ← Nat.shiftLeft_add_eq_or_of_lt b.isLt, Nat.shiftLeft_eq]
  omega

/-- Four bytes make a word, the lowest address the least significant (R52). -/
theorem leValue_four (b₀ b₁ b₂ b₃ : Byte) : leValue [b₀, b₁, b₂, b₃] = (b₃ ++ b₂ ++ b₁ ++ b₀).toNat := by
  simp only [toNat_append_byte, leValue, Nat.mul_zero, Nat.add_zero]

/-- The word at an address whose four bytes hold values. -/
theorem Memory.wordAt_of_bytes {m : Memory} {a : Nat} {b₀ b₁ b₂ b₃ : Byte} (h₀ : m.read a = some b₀)
    (h₁ : m.read (a + 1) = some b₁) (h₂ : m.read (a + 2) = some b₂) (h₃ : m.read (a + 3) = some b₃) :
    m.wordAt a = some (b₃ ++ b₂ ++ b₁ ++ b₀) := by
  have value := m.readLE_eq_leValue [b₀, b₁, b₂, b₃] a fun k hk => by
    match k, hk with
    | 0, _ => exact h₀
    | 1, _ => exact h₁
    | 2, _ => exact h₂
    | 3, _ => exact h₃
  rw [leValue_four] at value
  rw [Memory.wordAt, show m.readLE a 4 = _ from value, Option.map_some, BitVec.ofNat_toNat, BitVec.setWidth_eq]

/-- A fetch that no older value can mislead gives the current value, and draws nothing (R53, R64). -/
theorem State.fetch_of_coherent {s : State}
    (coherent : ∀ e ∈ s.stale, e.word = s.pc.toNat → e.value = s.mem.wordAt s.pc.toNat) :
    s.fetch = (s.mem.wordAt s.pc.toNat, s) := by
  have noOlder :
      s.stale.filter (fun e => decide (e.word = s.pc.toNat) && decide (e.value ≠ s.mem.wordAt s.pc.toNat)) = [] := by
    rw [List.filter_eq_nil_iff]
    intro e held older
    rw [Bool.and_eq_true, decide_eq_true_iff, decide_eq_true_iff] at older
    exact older.2 (coherent e held older.1)
  have choices : s.fetchChoices s.pc.toNat = [s.mem.wordAt s.pc.toNat] := by
    rw [State.fetchChoices, noOlder, List.map_nil, List.nil_append]
  rw [State.fetch, choices]
  rfl

/-- Settles O6: the fetch gives the word of the four bytes, in the same state, and the step runs it. -/
theorem stepRunsDecodedInstruction : Obligations.StepRunsDecodedInstruction := by
  intro s b₀ b₁ b₂ b₃ i running aligned executable h₀ h₁ h₂ h₃ coherent decoded
  have word := Memory.wordAt_of_bytes h₀ h₁ h₂ h₃
  have fetched : s.fetch = (some (b₃ ++ b₂ ++ b₁ ++ b₀), s) := by
    rw [State.fetch_of_coherent (word.symm ▸ coherent), word]
  rw [step_of_fetch running aligned executable (congrArg Prod.fst fetched), fetched, runWord, decoded]

-- ==== What raises without an instruction ====

/-- A word that matches no row of the table does not decode (R99). -/
theorem decode_eq_error {w : Word} (unmatched : ∀ r ∈ opcodeTable, ¬ r.Matches w) : ∃ reject, decode w = .error reject := by
  cases decoded : decode w with
  | error reject => exact ⟨reject, rfl⟩
  | ok i => exact absurd (matches_of_decode decoded) (unmatched i.row i.row_mem)

/-- Settles O8: the word does not decode, so it raises. -/
theorem unmatchedWordIsIllegal : Obligations.UnmatchedWordIsIllegal := by
  intro s w unmatched
  obtain ⟨reject, decoded⟩ := decode_eq_error unmatched
  rw [runWord, decoded]
  rfl

/-- A hart that runs steps, whatever the environment (R425). -/
theorem stepUnder_of_running (env : EnvTrap) {s : State} (running : s.trap = none) : stepUnder env s = hartStep s := by
  rw [stepUnder, running]

/-- Settles O9: one byte without execute permission denies the fetch. -/
theorem fetchOutsideExecutableMemoryFaults : Obligations.FetchOutsideExecutableMemoryFaults := by
  intro s k running aligned inside denied
  have refused : ¬ permitsAll s.params .execute s.pc.toNat 4 = true := fun granted => by
    rw [(permitsAll_iff _ _ _ _).mp granted k inside] at denied
    cases denied
  rw [step, stepUnder_of_running haltOnTrap running, hartStep, if_neg (not_not.mpr aligned), if_neg refused]
  rfl

-- ==== A trap record ====

/-- A state with a trap record goes to the environment (R400). -/
theorem stepUnder_of_trap (env : EnvTrap) {s : State} {e : Exception} (raised : s.trap = some e) :
    stepUnder env s = resumeUnder env e s := by
  rw [stepUnder, raised]

/-- Settles O10: the environment answers nothing, as the default always does, or a state. -/
theorem trapRecordGoesToEnvironment : Obligations.TrapRecordGoesToEnvironment := by
  intro env s t e raised
  refine ⟨stepUnder_of_trap haltOnTrap raised, fun halts => ?_, fun resumes => ?_⟩
  · rw [stepUnder_of_trap env raised, resumeUnder, halts]
  · rw [stepUnder_of_trap env raised, resumeUnder, resumes]
    rfl

end Sys2Proof.Machine
end

section
/-! The `amo*` (R310 to R329). -/

namespace Sys2Proof.Machine

/-- The word that an `amo*` stores, as the low half of a doubleword. -/
theorem toNat_eq_of_wordResult {result new : Word} (h : result = new) : result.toNat = (new.setWidth 64).toNat := by
  rw [h, BitVec.toNat_setWidth_of_le (by decide)]

/-- A choice by a two's complement comparison. -/
theorem ite_slt {w : Nat} {α : Type} (x y : BitVec w) (a b : α) :
    (if x.slt y then a else b) = if x.toInt < y.toInt then a else b := if_congr BitVec.slt_iff_toInt_lt rfl rfl

/-- A choice by an unsigned comparison. -/
theorem ite_ult {w : Nat} {α : Type} (x y : BitVec w) (a b : α) :
    (if x.ult y then a else b) = if x.toNat < y.toNat then a else b := if_congr BitVec.ult_iff_toNat_lt rfl rfl

/-- Settles O58: each stores the operation it names of the value read and `rs2`; the maxima and minima choose by a
comparison. -/
theorem atomicOperationsComplete : Obligations.AtomicOperationsComplete := by
  intro s rd rs1 rs2 aq rl bs a w v d u
  have low : s.readXW rs2 = v := s.readXW_eq_extractLsb' rs2
  simp only [List.forall_mem_cons, List.not_mem_nil, false_implies, implies_true, and_true, ← low]
  refine ⟨fun readable writable => ?words, fun readable writable => ?doublewords⟩
  case words =>
    refine ⟨?swap, ?add, ?and, ?or, ?xor, ?max, ?min, ?maxu, ?minu⟩
    case swap | and | or | xor =>
      exact completesAmo_of_amo rfl readable writable rfl (toNat_eq_of_wordResult rfl)
    case add => exact completesAmo_of_amo rfl readable writable rfl (toNat_eq_of_wordResult (BitVec.add_def _ _))
    case max | min => exact completesAmo_of_amo rfl readable writable rfl (toNat_eq_of_wordResult (ite_slt _ _ _ _))
    case maxu | minu => exact completesAmo_of_amo rfl readable writable rfl (toNat_eq_of_wordResult (ite_ult _ _ _ _))
  case doublewords =>
    have old : zextFrom 64 (leValue bs) = d := zextFrom_64 _
    refine ⟨?swap, ?add, ?and, ?or, ?xor, ?max, ?min, ?maxu, ?minu⟩
    case swap | and | or | xor => exact completesAmo_of_amo rfl readable writable old rfl
    case add => exact completesAmo_of_amo rfl readable writable old (congrArg BitVec.toNat (BitVec.add_def _ _))
    case max | min => exact completesAmo_of_amo rfl readable writable old (congrArg BitVec.toNat (ite_slt _ _ _ _))
    case maxu | minu => exact completesAmo_of_amo rfl readable writable old (congrArg BitVec.toNat (ite_ult _ _ _ _))

end Sys2Proof.Machine
end

section
/-! The conversions between floating point and integers (R286 to R303): as instructions, and `to_int` as a rounding. -/

namespace Sys2Proof.Machine

-- ==== From an integer ====

/-- An integer of at most `p` bits is converted exactly, where the range of the format reaches beyond `p` bits (R303). -/
theorem Fmt.ofInt_exact {F : Fmt} (exponent : 0 < F.expBits) (least : F.emin ≤ F.fracBits) (greatest : F.fracBits ≤ F.bias)
    (rm : RMode) {i : ℤ} (short : i.natAbs < 2 ^ F.prec) : (F.ofInt rm i).flags = 0 := by
  by_cases zero : i = 0
  · rw [zero, Fmt.ofInt, Fmt.round_exactOfInt_zero (by rw [Int.cast_zero, zero_mul])]
  · have nonzero : (i.natAbs : ℚ) ≠ 0 := Nat.cast_ne_zero.mpr (Int.natAbs_ne_zero.mpr zero)
    have stands : (exactOfInt i 0).StandsFor F.prec ((i.natAbs : ℚ) * 2 ^ (0 : ℤ)) := Exact.standsFor_of_eq rfl rfl
    rw [zpow_zero, mul_one] at stands
    obtain ⟨low, high⟩ := stands.log2_bounds nonzero
    have bits : i.natAbs.log2 < F.prec := (Nat.log2_lt (Int.natAbs_ne_zero.mpr zero)).mpr short
    have log2 : (exactOfInt i 0).log2 = 0 + i.natAbs.log2 := rfl
    rw [Fmt.prec] at bits
    have same := Fmt.roundAt_of_multiple (F := F) (K := ℚ) rm (exactOfInt i 0).neg i.natAbs (e := 0)
      (e' := max (exactOfInt i 0).log2 F.emin) (by omega)
    rw [zpow_zero, mul_one] at same
    have below : (i.natAbs : ℚ) < 2 ^ (F.bias + 1) := high.trans_le (zpow_le_zpow_right₀ one_le_two (by omega))
    exact ((Fmt.round_isRounding exponent stands nonzero rm false).exact low high same below).2

/-- A double holds every integer of at most 53 bits. -/
theorem double_ofInt_exact (rm : RMode) {i : ℤ} (short : i.natAbs < 2 ^ 53) : (double.ofInt rm i).flags = 0 :=
  Fmt.ofInt_exact (by decide) (by decide) (by decide) rm short

section UsableMode

variable {i : Instr} {s : State} {rd : Reg} {rm : BitVec 3} {m : RMode} {k : RMode → Result} {v : Dword} {F : Flags}

/-- An instruction with an rm field that ends with a double and no flags. -/
theorem completesF_of_withRm (usable : s.rmode rm = some m) (h : exec i s = s.withRm i rm k) (ends : k m = s.putD rd v) :
    CompletesF i s rd v :=
  completesF_of_putD (by rw [h, State.withRm, usable, ← ends]) rfl

/-- An instruction with an rm field that ends with an integer register and flags. -/
theorem completesXFlags_of_withRm (usable : s.rmode rm = some m) (h : exec i s = s.withRm i rm k)
    (ends : k m = ((s.writeX rd v).accrue F).completes) : CompletesXFlags i s rd v F :=
  completesXFlags_of (by rw [h, State.withRm, usable, ← ends])

end UsableMode

/-- Settles O46: each asks for its mode and ends as a single, a double or an integer; a double holds every word. -/
theorem fpIntConversionsComplete : Obligations.FpIntConversionsComplete := by
  intro s rd rs1 rm m usable x w a c
  have low : w = s.readXW rs1 := (s.readXW_eq_extractLsb' rs1).symm
  have signed : w.toInt.natAbs < 2 ^ 53 := by
    have := w.toInt_lt
    have := w.le_toInt
    omega
  have unsigned : (w.toNat : ℤ).natAbs < 2 ^ 53 := by
    have := w.isLt
    omega
  simp only [low] at signed unsigned ⊢
  simp only [List.forall_mem_cons, List.not_mem_nil, false_implies, implies_true, and_true]
  refine ⟨?singles, ?doubles, ?exactDoubles, ?words, ?doublewords⟩
  case singles => with_reducible and_intros <;> exact completesFFlags_of_withRmS usable rfl rfl
  case doubles => with_reducible and_intros <;> exact completesFFlags_of_withRmD usable rfl rfl
  case exactDoubles =>
    exact ⟨⟨completesF_of_withRm usable rfl rfl, double_ofInt_exact m signed⟩,
      completesF_of_withRm usable rfl rfl, double_ofInt_exact m unsigned⟩
  case words => with_reducible and_intros <;> exact completesXFlags_of_withRm usable rfl rfl
  case doublewords => with_reducible and_intros <;> exact completesXFlags_of_withRm usable rfl rfl

-- ==== To an integer ====

section ToInt

variable {F : Fmt} {rm : RMode} {n : ℕ} {signed : Bool} {a : ℕ}

/-- A number rounded to an integer: its sign, and its magnitude rounded in the direction the mode gives for the sign
(R302). -/
def roundSigned (rm : RMode) (x : ℚ) : ℤ := (if x < 0 then -1 else 1) * roundToInt rm (decide (x < 0)) |x|

/-- A finite value is rounded with its own sign; for a zero of either sign that is 0. -/
theorem FpVal.roundSigned_toRat (rm : RMode) (neg : Bool) (m : ℕ) (e : ℤ) :
    roundSigned rm (FpVal.fin neg m e).toRat = (if neg then -1 else 1) * roundToInt rm neg ((m : ℚ) * 2 ^ e) := by
  rw [roundSigned, FpVal.abs_toRat]
  by_cases zero : (FpVal.fin neg m e).toRat = 0
  · have magnitude : (m : ℚ) * 2 ^ e = (0 : ℤ) := by rw [← FpVal.abs_toRat neg, zero, abs_zero, Int.cast_zero]
    rw [magnitude, roundToInt_intCast, roundToInt_intCast, mul_zero, mul_zero]
  · have sign := FpVal.decide_toRat_neg zero
    have negative : (FpVal.fin neg m e).toRat < 0 ↔ neg = true := decide_eq_true_iff.symm.trans (by rw [sign])
    rw [sign, if_congr negative rfl rfl]

/-- `quantize` in units of 1 gives the rounded number, with the sign put back, and tells whether it was rounded. -/
theorem FpVal.quantize_toRat (rm : RMode) (neg : Bool) (m : ℕ) (e : ℤ) :
    let q := Exact.quantize ⟨neg, m, e, false⟩ rm 0
    let x := (FpVal.fin neg m e).toRat
    (if neg then -(Int.ofNat q.1) else Int.ofNat q.1) = roundSigned rm x ∧ (q.2 = true ↔ (roundSigned rm x : ℚ) ≠ x) := by
  intro q x
  have stands : Exact.StandsFor ⟨neg, m, e, false⟩ 0 ((m : ℚ) * 2 ^ e) := Exact.standsFor_of_eq rfl rfl
  obtain ⟨value, inexact⟩ := stands.quantize rm (k := 0) (fun cut => nomatch cut)
  rw [zpow_zero, div_one] at value inexact
  have rounded := FpVal.roundSigned_toRat rm neg m e
  have number : x = (if neg then -1 else 1) * ((m : ℚ) * 2 ^ e) := mul_assoc _ _ _
  have unit : (if neg then -1 else 1 : ℚ) ≠ 0 := by split_ifs <;> norm_num
  refine ⟨?_, inexact.trans ?_⟩
  · rw [rounded, ← value]
    cases neg with
    | false => exact (one_mul _).symm
    | true => exact (neg_one_mul _).symm
  · rw [rounded, number]
    push_cast
    exact (mul_right_injective₀ unit).ne_iff.symm

/-- A NaN gives the greatest integer, and NV. -/
theorem Fmt.toInt_of_isNaN (h : (F.unpack a).isNaN = true) : F.toInt rm n signed a = ((intRange n signed).2, flagNV) := by
  cases ua : F.unpack a with
  | nan => rw [Fmt.toInt, ua]
  | inf | fin => rw [ua] at h; cases h

/-- An infinity gives the bound of its sign, and NV. -/
theorem Fmt.toInt_of_inf {neg : Bool} (h : F.unpack a = .inf neg) :
    F.toInt rm n signed a = (if neg then (intRange n signed).1 else (intRange n signed).2, flagNV) := by
  rw [Fmt.toInt, h]

/-- A finite number is rounded, and kept where it is in range. -/
theorem Fmt.toInt_of_isFinite (h : (F.unpack a).IsFinite) :
    F.toInt rm n signed a =
      if (intRange n signed).2 < roundSigned rm (F.unpack a).toRat then ((intRange n signed).2, flagNV)
      else if roundSigned rm (F.unpack a).toRat < (intRange n signed).1 then ((intRange n signed).1, flagNV)
      else (roundSigned rm (F.unpack a).toRat,
        flagIf (decide ((roundSigned rm (F.unpack a).toRat : ℚ) ≠ (F.unpack a).toRat)) flagNX) := by
  obtain ⟨neg, m, e, ua⟩ := h.exists_fin
  obtain ⟨value, inexact⟩ := FpVal.quantize_toRat rm neg m e
  have flag := Bool.eq_iff_iff.mpr (inexact.trans decide_eq_true_iff.symm)
  simp only [Fmt.toInt, ua, value, flag]

end ToInt

/-- Settles O57: a pattern is a NaN, an infinity, or a finite number, which is rounded. -/
theorem floatToIntegerFollowsRule : Obligations.FloatToIntegerFollowsRule := by
  intro F _ rm n signed a _ lo hi v r
  have range : intRange n signed = (lo, hi) := by cases signed <;> rfl
  refine ⟨fun nan => ?_, fun inf => ?_, fun inf => ?_, fun finite => ?_⟩
  · rw [Fmt.toInt_of_isNaN nan, range]
  · rw [Fmt.toInt_of_inf inf, range]; rfl
  · rw [Fmt.toInt_of_inf inf, range]; rfl
  · rw [Fmt.toInt_of_isFinite finite, range]
    rfl

end Sys2Proof.Machine
end
